-- ==== Sys2Proof/Word.lean ====
section
/-! DEFINITION. The word of the OD-24: 32 bits (spec 00, section 1.6). -/

namespace Sys2Proof

/-- A word of the Control Window or of a link message: 32 bits (spec 00, section 1.6). -/
abbrev Word := BitVec 32

end Sys2Proof
end

