-- ==== Sys2Proof/Syntax.lean ====
section
/-! DEFINITION. The commands and events of the OD-24: one constructor for each row of
spec/opcode_table.json, with the operands the row's rule reads. -/

namespace Sys2Proof

/-- The sixteen words of the Control Window (R152, Table 9-1). Offset 38H is one word with two names:
SWEEP_SKIPPED when read, WINDOW_RESET when written. -/
inductive WindowWord where
  | command | arg0 | arg1 | arg2 | arg3 | res0 | res1 | res2
  | status | events | eventEnable | counts | sweepCursor | sweepCounts | sweepSkipped | epoch
  deriving DecidableEq, Repr

/-- The two walk engines (R79). -/
inductive EngineId where
  | a | b
  deriving DecidableEq, Repr

/-- Who carries out a walk: the Command Unit for the window's LOOKUP, or a walk engine (section 4 of
spec 04). -/
inductive Walker where
  | commandUnit
  | engine (e : EngineId)
  deriving DecidableEq, Repr

/-- The commands and events of the OD-24, in the order of spec/opcode_table.json. -/
inductive Instr where
  -- writes of COMMAND (R154): the arguments are the ARG words as they stand
  | create | retire | pin | unpin | clearDirectory | alter | resize | readRecord | lookup | forward
  | moveBegin | moveCommit | moveAbort | sweepStart | sweepStop | linkOpen | linkClose
  | setPortDomain | setConfig | readConfig
  /-- A write of COMMAND whose code, bits 7:0 of the word, names no command (R158). -/
  | unknownCommand (word : Word)
  -- directory accesses (R41, Table 3-1)
  | createAccess | retireAccess | pinAccess | unpinAccess | clearAccess | alterAccess | resizeAccess
  | readRecordAccess
  | walkFirstAccess (w : Walker) | walkHopAccess (w : Walker) | shortcutAccess (w : Walker)
  | fromAccess | checkWalkAccess | forwardFinalAccess
  | moveBeginAccess | moveCommitAccess | moveAbortAccess | cacheEnAccess
  | linkUnpinAccess (e : EngineId)
  | sweepVisit | expiryAccess
  -- the Lookup Link
  /-- A request message, three words (Table 8-1), presented on a port (R138). -/
  | linkRequest (port : Fin 4) (word0 word1 word2 : Word)
  | responseAccept | walkTake
  -- the Move Timer
  | tick | expiry
  -- resets
  | resetAssert | resetRelease
  /-- A write of WINDOW_RESET (R166). -/
  | windowReset (value : Word)
  | windowResetComplete
  -- the other window writes
  | eventsWrite (value : Word) | eventEnableWrite (value : Word)
  | registerWrite (word : WindowWord) (value : Word)
  deriving DecidableEq, Repr

end Sys2Proof
end

