-- ==== Sys2Proof/Decode.lean ====
section
/-! DEFINITION. The decoder over the opcode table's rows that give bits. The OD-24 is a block that takes
commands; no row of spec/opcode_table.json gives bits, so no word spells a command. Window words and link
messages are taken apart in Machine/Operands.lean. -/

namespace Sys2Proof

/-- The command a word spells by the table's bits: none, since no row gives any. -/
def decodeTableWord (_nbits _w : Nat) : Option Instr := none

end Sys2Proof
end

