-- ==== Sys2Proof/Config.lean ====
section
/-! DEFINITION. The sizes and limits the spec fixes for every OD-24. Nothing here is left open by the
spec, so there is no free value. -/

namespace Sys2Proof.Config

/-- The last slot: slots are 1..4095 (R5); also the capacity of the Free Slot Queue (R19). -/
@[simp] abbrev lastSlot : Nat := 4095

/-- The last generation of a slot (R9). -/
@[simp] abbrev lastGen : BitVec 8 := 255#8

/-- Positions of the Resolution Cache (R44). -/
@[simp] abbrev cacheCapacity : Nat := 32

/-- Places shared by the Park List and the Release Queue (R83). -/
@[simp] abbrev parkPlaces : Nat := 8

/-- Credits of a link port (R136). -/
@[simp] abbrev portCredits : Nat := 4

/-- The last hop of FORWARD's check walk (R89). -/
@[simp] abbrev checkWalkLimit : Nat := 15

/-- The greatest length of an extent, 16 MiB (R6). -/
@[simp] abbrev maxLength : Nat := 16777216

/-- The size of the physical address space, 2^32 bytes (R6). -/
@[simp] abbrev addressSpace : Nat := 4294967296

/-- The greatest size of a walk request, in bytes (R61). -/
@[simp] abbrev maxSize : Nat := 256

/-- The greatest pin count (R8). -/
@[simp] abbrev maxPins : BitVec 8 := 255#8

end Sys2Proof.Config
end

