-- ==== Sys2Proof/Machine/State.lean ====
section
/-! DEFINITION. The state of the OD-24: every piece of state the spec names, as plain data, and its value
after power-on reset. Figure 1-2 of spec 00 lists the blocks. -/

namespace Sys2Proof.Machine

open Sys2Proof

/-- Four like things, numbered 0 to 3: the ports (R136), the Port Domain Table (R146), the Move Table
(R100), the argument words (R152). -/
structure Quad (α : Type) where
  at0 : α
  at1 : α
  at2 : α
  at3 : α
  deriving DecidableEq, Repr

/-! ### Outcomes -/

/-- The outcomes of commands, link requests and acknowledges (R70, Table 4-2). -/
inductive OutcomeCode where
  | done | resolved | resolvedFwd
  | nullHandle | stale | dangling | worn | chainLimit | domain | rights | bounds | moving | malformed
  | pinLimit | unpinUnderflow
  | closed | noCredit | dupTag
  | noSlot | badArgument | notLive | pinned | moveTableFull | notMoving | lapsed | cycle | deep
  | contended | busy | unknownCommand | notRunning
  deriving DecidableEq, Repr

/-! ### Handles and records (chapter 1) -/

/-- A well-formed handle word, taken apart (R1, Table 1-4). -/
structure Handle where
  slot : Nat
  gen : BitVec 8
  deriving DecidableEq, Repr

/-- The rights set of a record: any subset of READ and WRITE (R7). -/
structure Rights where
  read : Bool
  write : Bool
  deriving DecidableEq, Repr

/-- The fields of a LIVE or MOVING record that a resolution is judged on, and that a cache entry holds
of its final record (R6, R7, R44). -/
structure Extent where
  base : Word
  length : Nat
  rights : Rights
  shared : Bool
  domain : BitVec 4
  deriving DecidableEq, Repr

/-- What a LIVE or MOVING record carries beside its generation (R5, Table 1-6). -/
structure Object where
  ext : Extent
  cls : BitVec 8
  pins : BitVec 8
  deriving DecidableEq, Repr

/-- An object record: its state, and the fields present in that state (R5, Table 1-6). A WORN record's
generation is 255 by R9. -/
inductive Record where
  | free (gen : BitVec 8)
  | live (gen : BitVec 8) (obj : Object)
  | moving (gen : BitVec 8) (obj : Object)
  | forwarded (gen : BitVec 8) (cls : BitVec 8) (target : Handle)
  | worn
  deriving DecidableEq, Repr

/-- What a slot of the Record Store holds when it is not listed: its reset contents, FREE at generation 1
(R13). -/
abbrev resetRecord : Record := .free 1#8

/-- The Record Store (R5): the slots whose record differs from `resetRecord`, by rising slot number. -/
abbrev Store := List (Nat × Record)

/-! ### Directory Access Unit (chapter 3) -/

/-- The five clients of the Directory Access Unit (R39). -/
inductive Client where
  | commandUnit | engineA | engineB | sweepUnit | moveTimer
  deriving DecidableEq, Repr

/-- An entry of the Resolution Cache (R44). -/
structure CacheEntry where
  origin : Handle
  final : Handle
  hops : Nat
  ext : Extent
  deriving DecidableEq, Repr

/-! ### Walks (chapter 4) -/

/-- The access kind of a request; codes 2 and 3 name neither READ nor WRITE (R137, Table 9-5). -/
inductive AccessKind where
  | read | write | undefined
  deriving DecidableEq, Repr

/-- The kind of a request; code 3 of a link message names none (R137). -/
inductive RequestKind where
  | lookup | lookupPin | unpin | undefined
  deriving DecidableEq, Repr

/-- A walk request (R60, Table 4-1). The origin handle is kept as the word presented. -/
structure WalkRequest where
  origin : Word
  offset : Nat
  size : Nat
  access : AccessKind
  kind : RequestKind
  domain : BitVec 4
  deriving DecidableEq, Repr

/-- A request accepted on a link port: the whole request with its port, its tag and the requester domain
it was accepted with (R60, R138). -/
structure LinkRequest where
  port : Fin 4
  tag : BitVec 4
  req : WalkRequest
  deriving DecidableEq, Repr

/-- The origin reading of a walk: the generation and forward target of its origin record (R62). -/
structure OriginReading where
  gen : BitVec 8
  target : Handle
  deriving DecidableEq, Repr

/-- A walk that has made its first access and has taken a hop (R62, R63): what it took at the first
access, its origin reading, the current handle H and the hop count h. -/
structure WalkProgress where
  snapshot : BitVec 16
  limit : Nat
  reading : OriginReading
  current : Handle
  hops : Nat
  deriving DecidableEq, Repr

/-- What a walk holds while it waits for its shortcut access (R79, Table 4-4). -/
structure Shortcut where
  slot : Nat
  reading : OriginReading
  final : Handle
  snapshot : BitVec 16
  deriving DecidableEq, Repr

/-- The outcome and results of a walk (R71). -/
structure WalkResult where
  outcome : OutcomeCode
  address : Word
  final : Word
  hops : Nat
  fromCache : Bool
  deriving DecidableEq, Repr

/-- A response in the Response Queue (R144). -/
structure Response where
  port : Fin 4
  tag : BitVec 4
  result : WalkResult
  deriving DecidableEq, Repr

/-- The state of a walk engine (R79, Table 4-4). WALKING is told apart by what the engine waits for:
the first access of a walk, a later access of a walk, or the single access of a link UNPIN. -/
inductive Engine where
  | idle
  | opening (r : LinkRequest)
  | walking (r : LinkRequest) (p : WalkProgress)
  | unpinning (r : LinkRequest)
  | shortcut (c : Shortcut)
  deriving DecidableEq, Repr

/-! ### Command Unit (chapters 5 and 9) -/

/-- The commands of the Control Window (R159, Table 9-4). -/
inductive Cmd where
  | create | retire | pin | unpin | clearDirectory | alter | resize | readRecord | lookup | forward
  | moveBegin | moveCommit | moveAbort | sweepStart | sweepStop | linkOpen | linkClose
  | setPortDomain | setConfig | readConfig
  deriving DecidableEq, Repr

/-- What the command in progress waits for. The walk phases belong to LOOKUP (R77); the last three are
FORWARD's phases FROM_CHECK, CHECK_WALK and FINAL (R87, Table 5-1). -/
inductive CmdPhase where
  | single
  | walkOpening (r : WalkRequest)
  | walking (r : WalkRequest) (p : WalkProgress)
  | walkShortcut (c : Shortcut) (result : WalkResult)
  | fromCheck (source target : Handle)
  | checkWalk (source target : Handle) (snapshot : BitVec 16) (current : Handle) (hops : Nat)
  | final (source target : Handle) (snapshot : BitVec 16) (finalHandle : Handle) (hops : Nat)
  deriving DecidableEq, Repr

/-- The command in progress: the latched code, as the command it names, the latched arguments, and the
phase (R154). -/
structure Command where
  cmd : Cmd
  args : Quad Word
  phase : CmdPhase
  deriving DecidableEq, Repr

/-- The result words RES0 to RES2 (R152). -/
structure Results where
  res0 : Word
  res1 : Word
  res2 : Word
  deriving DecidableEq, Repr

/-- The configuration fields (Table 9-7). -/
structure ConfigFields where
  hopLimit : Nat
  shortcutEn : Bool
  cacheEn : Bool
  tickDiv : Nat
  moveWindow : Nat
  freeLowMark : Nat
  deriving DecidableEq, Repr

/-! ### Relocation Unit (chapter 6) -/

/-- A Move Table entry with the fields each state holds (R100, Table 6-1, Table 6-2). -/
inductive MoveEntry where
  | idle
  | copying (slot : Nat) (newBase : Word) (remaining : Nat)
  | lapsed (slot : Nat)
  deriving DecidableEq, Repr

/-- A Park List entry: one whole link request and the slot it waits for (R110). -/
structure Parked where
  request : LinkRequest
  slot : Nat
  deriving DecidableEq, Repr

/-! ### Sweep Unit (chapter 7) -/

/-- The sweep states (R129). -/
inductive SweepState where
  | idle | running | stopping
  deriving DecidableEq, Repr

/-- The end kinds of a sweep (R131). -/
inductive EndKind where
  | none | done | stopped
  deriving DecidableEq, Repr

/-- The sweep actions (R122). -/
inductive SweepAction where
  | count | retire | retag
  deriving DecidableEq, Repr

/-- The three record fields a sweep compares (R124): of a record, of a pattern, or of a care mask. -/
structure SweepFields where
  cls : BitVec 8
  domain : BitVec 4
  shared : Bool
  deriving DecidableEq, Repr

/-- The selection and action latched by SWEEP_START (R122, Table 7-1). The state set has FREE, LIVE,
MOVING, FORWARDED, WORN in bits 0 to 4 (Table 9-5). -/
structure Selection where
  startSlot : Nat
  endSlot : Nat
  states : BitVec 5
  action : SweepAction
  newClass : BitVec 8
  pattern : SweepFields
  care : SweepFields
  deriving DecidableEq, Repr

/-- The cleared selection of a reset (R135). -/
abbrev clearedSelection : Selection :=
  { startSlot := 0, endSlot := 0, states := 0#5, action := .count, newClass := 0#8
    pattern := ⟨0#8, 0#4, false⟩, care := ⟨0#8, 0#4, false⟩ }

/-- The Sweep Unit (section 7.3 of spec 07). -/
structure SweepUnit where
  state : SweepState
  sel : Selection
  cursor : Nat
  matched : Nat
  acted : Nat
  skipped : Nat
  endKind : EndKind
  deriving DecidableEq, Repr

/-! ### Lookup Link (chapter 8) -/

/-- The gate (R147). -/
inductive Gate where
  | opened | draining | closed
  deriving DecidableEq, Repr

/-- The flow control of one port: available credits and in-flight tag set (R136). The tags stand in the
order of their acceptance, without repeats; nothing reads that order. -/
structure PortState where
  credits : Nat
  tags : List (BitVec 4)
  deriving DecidableEq, Repr

/-- The result an acknowledge carries (R138, Table 8-1). -/
inductive AckResult where
  | accepted | closed | noCredit | dupTag
  deriving DecidableEq, Repr

/-! ### The whole machine -/

/-- Whether the part runs, its RESET input is held (R165), or a window reset is in progress (R166). -/
inductive Phase where
  | running | held | resetting
  deriving DecidableEq, Repr

/-- The state of the OD-24, block by block in the order of Figure 1-2 of spec 00. -/
structure State where
  /-- The model's own: commands and events that have not happened yet, first in, first out. -/
  pending : List Instr
  /-- RESET input and RESETTING (R165, R166). -/
  phase : Phase
  /-- Record Store (R5). -/
  records : Store
  /-- Free Slot Queue, head first (R19). -/
  freeQueue : List Nat
  /-- Worn Count (R21). -/
  wornCount : Nat
  /-- Rotation pointer of the Directory Access Unit (R38). -/
  lastGranted : Client
  /-- Resolution Cache, most recent first (R45). -/
  cache : List CacheEntry
  /-- Forwarding Epoch (R57). -/
  epoch : BitVec 16
  /-- Command in progress; BUSY while there is one (R154). -/
  cmd : Option Command
  /-- ARG0 to ARG3 (R157). -/
  args : Quad Word
  /-- RES0 to RES2 (R155). -/
  results : Results
  /-- STATUS, last outcome (R153). -/
  lastOutcome : OutcomeCode
  /-- STATUS, last command (R153). -/
  lastCommand : BitVec 8
  /-- EVENTS (R161). -/
  events : BitVec 6
  /-- EVENT_ENABLE (R162). -/
  eventEnable : BitVec 6
  /-- Configuration fields (Table 9-7). -/
  config : ConfigFields
  /-- Walk Engine A (R79). -/
  engineA : Engine
  /-- Walk Engine B (R79). -/
  engineB : Engine
  /-- Lookup Queue, head first (R82). -/
  lookupQueue : List LinkRequest
  /-- Release Queue, head first (R83). -/
  releaseQueue : List LinkRequest
  /-- Move Table (R100). -/
  moves : Quad MoveEntry
  /-- Park List, head first (R110). -/
  parkList : List Parked
  /-- Cycle counter of the Move Timer (R102). -/
  cycles : Nat
  /-- The TICK_DIV value under which the counter's present interval began (R102). -/
  interval : Nat
  /-- Entries whose expiry a tick has noted and no EXPIRY has recorded yet, oldest first (R103, log 6). -/
  expired : List (Fin 4)
  /-- Pending expiries, oldest first (R103). -/
  pendingExpiries : List (Fin 4)
  /-- Sweep Unit (R129). -/
  sweep : SweepUnit
  /-- Gate of the Lookup Link (R147). -/
  gate : Gate
  /-- Credits and in-flight tags of the four ports (R136). -/
  ports : Quad PortState
  /-- Port Domain Table (R146). -/
  portDomains : Quad (BitVec 4)
  /-- Response Queue, head first (R144). -/
  responses : List Response
  /-- The last acknowledge given on each port since the last reset (R138). -/
  acks : Quad (Option AckResult)
  deriving DecidableEq, Repr

/-- The reasons for which a step stops the machine with a fault: none. The OD-24 answers everything it
refuses with an outcome code (R70) and goes on. Safe: no claim rests on a stop. -/
inductive Fault where
  deriving DecidableEq, Repr

/-- The reasons for which a step is refused. -/
inductive Refusal where
  /-- Raised by `exec` alone, for a command that has no meaning in this model yet. Safe: nothing is
  claimed of such a command. No arm of `exec` raises it now. -/
  | notModelled (mnemonic : String)
  deriving DecidableEq, Repr

/-- The configuration fields after power-on reset (Table 9-7). -/
def powerOnConfig : ConfigFields :=
  { hopLimit := 8, shortcutEn := false, cacheEn := true
    tickDiv := 100, moveWindow := 1000, freeLowMark := 64 }

/-- The Sweep Unit after either reset (R135). -/
def resetSweep : SweepUnit :=
  { state := .idle, sel := clearedSelection, cursor := 0, matched := 0, acted := 0, skipped := 0
    endKind := .none }

/-- The slots in ascending order, as the Free Slot Queue holds them after a reset or a clear (R20, R36). -/
def allSlots : List Nat := List.range' 1 Config.lastSlot

/-- The OD-24 right after power-on reset, RESET released and LINK_READY high (R165, Table 9-8). -/
def State.reset : State :=
  { pending := []
    phase := .running
    records := []
    freeQueue := allSlots
    wornCount := 0
    lastGranted := .moveTimer
    cache := []
    epoch := 0#16
    cmd := none
    args := ⟨0#32, 0#32, 0#32, 0#32⟩
    results := ⟨0#32, 0#32, 0#32⟩
    lastOutcome := .done
    lastCommand := 0#8
    events := 0#6
    eventEnable := 0#6
    config := powerOnConfig
    engineA := .idle
    engineB := .idle
    lookupQueue := []
    releaseQueue := []
    moves := ⟨.idle, .idle, .idle, .idle⟩
    parkList := []
    cycles := 0
    interval := 100
    expired := []
    pendingExpiries := []
    sweep := resetSweep
    gate := .closed
    ports := ⟨⟨4, []⟩, ⟨4, []⟩, ⟨4, []⟩, ⟨4, []⟩⟩
    portDomains := ⟨1#4, 2#4, 3#4, 4#4⟩
    responses := []
    acks := ⟨none, none, none, none⟩ }

end Sys2Proof.Machine
end

