-- ==== Sys2Proof/Machine/Operands.lean ====
section
/-! DEFINITION. Operand forms: handles, command codes and packed arguments, link messages, result and
status codes, and the words the OD-24 returns. Everything that takes a word apart or puts one together
stands here. -/

namespace Sys2Proof.Machine

open Sys2Proof

/-! ### Fields of words -/

/-- `count` bits of a word from bit `low`, as a number. -/
def bitsOf (w : Word) (low count : Nat) : Nat := (w.extractLsb' low count).toNat

/-- One bit of a word. -/
def bitOf (w : Word) (i : Nat) : Bool := w.getLsbD i

/-- A Bool as one bit: 1 for yes (Table 9-5). -/
def bit1 (b : Bool) : BitVec 1 := BitVec.ofBool b

/-- A number as a word. -/
def wordOf (n : Nat) : Word := BitVec.ofNat 32 n

/-! ### Handles (R1, R2) -/

/-- The handle a word spells: slot in bits 19:8, generation in bits 7:0 (R1, Table 1-4). -/
def Handle.ofWord (w : Word) : Handle :=
  { slot := bitsOf w 8 12, gen := w.extractLsb' 0 8 }

/-- The word of a handle: the slot times 256 plus the generation (R1). -/
def Handle.word (h : Handle) : Word := wordOf (h.slot * 256 + h.gen.toNat)

/-- The three kinds of handle word (R2). -/
inductive HandleForm where
  | malformed
  | null
  | named (h : Handle)
  deriving DecidableEq, Repr

/-- The kind of a handle word, tested in the order of R2. -/
def handleForm (w : Word) : HandleForm :=
  if bitsOf w 20 12 ≠ 0 then .malformed
  else if (Handle.ofWord w).slot ≠ 0 ∧ (Handle.ofWord w).gen = 0#8 then .malformed
  else if (Handle.ofWord w).slot = 0 then .null
  else .named (Handle.ofWord w)

/-- The refusal a handle argument gets at acceptance, or its handle (R3). -/
def handleArgument (w : Word) : Except OutcomeCode Handle :=
  match handleForm w with
  | .malformed => .error .badArgument
  | .null => .error .nullHandle
  | .named h => .ok h

/-! ### Outcome codes (Table 4-2) -/

/-- The 8-bit code of an outcome (R70, Table 4-2). -/
def OutcomeCode.code : OutcomeCode → BitVec 8
  | .done => 0x00#8
  | .resolved => 0x01#8
  | .resolvedFwd => 0x02#8
  | .nullHandle => 0x10#8
  | .stale => 0x11#8
  | .dangling => 0x12#8
  | .worn => 0x13#8
  | .chainLimit => 0x14#8
  | .domain => 0x15#8
  | .rights => 0x16#8
  | .bounds => 0x17#8
  | .moving => 0x18#8
  | .malformed => 0x19#8
  | .pinLimit => 0x1A#8
  | .unpinUnderflow => 0x1B#8
  | .closed => 0x20#8
  | .noCredit => 0x21#8
  | .dupTag => 0x22#8
  | .noSlot => 0x30#8
  | .badArgument => 0x31#8
  | .notLive => 0x32#8
  | .pinned => 0x33#8
  | .moveTableFull => 0x34#8
  | .notMoving => 0x35#8
  | .lapsed => 0x36#8
  | .cycle => 0x37#8
  | .deep => 0x38#8
  | .contended => 0x39#8
  | .busy => 0x3A#8
  | .unknownCommand => 0x3B#8
  | .notRunning => 0x3C#8

/-- The code an acknowledge carries: 00H accepted, or the code of the refusal (Table 8-1). -/
def AckResult.code : AckResult → BitVec 8
  | .accepted => 0x00#8
  | .closed => OutcomeCode.closed.code
  | .noCredit => OutcomeCode.noCredit.code
  | .dupTag => OutcomeCode.dupTag.code

/-! ### Window words (Table 9-1) -/

/-- The byte offset of a window word (R152, Table 9-1). -/
def wordOffset : WindowWord → Nat
  | .command => 0x00
  | .arg0 => 0x04
  | .arg1 => 0x08
  | .arg2 => 0x0C
  | .arg3 => 0x10
  | .res0 => 0x14
  | .res1 => 0x18
  | .res2 => 0x1C
  | .status => 0x20
  | .events => 0x24
  | .eventEnable => 0x28
  | .counts => 0x2C
  | .sweepCursor => 0x30
  | .sweepCounts => 0x34
  | .sweepSkipped => 0x38
  | .epoch => 0x3C

/-- The sixteen window words in the order of their offsets (R152). -/
def allWords : List WindowWord :=
  [.command, .arg0, .arg1, .arg2, .arg3, .res0, .res1, .res2, .status, .events, .eventEnable, .counts,
    .sweepCursor, .sweepCounts, .sweepSkipped, .epoch]

/-- The word that an access selects by the signals A5:2, bits 5:2 of its byte offset (R152, Table 9-9). -/
def wordAt (select : BitVec 4) : WindowWord :=
  (allWords.find? (fun w => wordOffset w == 4 * select.toNat)).getD .command

/-! ### Command codes (Table 9-4) -/

/-- The code of a command (R159, Table 9-4). -/
def Cmd.code : Cmd → BitVec 8
  | .create => 0x01#8
  | .retire => 0x02#8
  | .pin => 0x03#8
  | .unpin => 0x04#8
  | .clearDirectory => 0x05#8
  | .alter => 0x08#8
  | .resize => 0x09#8
  | .readRecord => 0x0A#8
  | .lookup => 0x10#8
  | .forward => 0x11#8
  | .moveBegin => 0x18#8
  | .moveCommit => 0x19#8
  | .moveAbort => 0x1A#8
  | .sweepStart => 0x20#8
  | .sweepStop => 0x21#8
  | .linkOpen => 0x28#8
  | .linkClose => 0x29#8
  | .setPortDomain => 0x2A#8
  | .setConfig => 0x30#8
  | .readConfig => 0x31#8

/-- Every command of Table 9-4. -/
def allCmds : List Cmd :=
  [.create, .retire, .pin, .unpin, .clearDirectory, .alter, .resize, .readRecord, .lookup, .forward,
    .moveBegin, .moveCommit, .moveAbort, .sweepStart, .sweepStop, .linkOpen, .linkClose,
    .setPortDomain, .setConfig, .readConfig]

/-- The code in a word written to COMMAND: bits 7:0, the others ignored (R152, R158). -/
def commandCode (w : Word) : BitVec 8 := w.extractLsb' 0 8

/-- The command a code names, if any (R158, Table 9-4). -/
def commandOfCode (c : BitVec 8) : Option Cmd := allCmds.find? (fun k => k.code == c)

/-! ### Packed arguments (Table 9-5) -/

/-- The fields packed in ARG2 of CREATE and ARG1 of ALTER (Table 9-5), as wide as they are presented. -/
structure PackedFields where
  rights : Rights
  shared : Bool
  domain : Nat
  cls : Nat
  deriving DecidableEq, Repr

/-- ARG2 of CREATE; the field part of ARG1 of ALTER (Table 9-5). -/
def packedFields (w : Word) : PackedFields :=
  { rights := ⟨bitOf w 0, bitOf w 1⟩, shared := bitOf w 2
    domain := bitsOf w 8 5, cls := bitsOf w 16 9 }

/-- ALTER's four field-select flags (R14). -/
structure AlterSelect where
  rights : Bool
  shared : Bool
  domain : Bool
  cls : Bool
  deriving DecidableEq, Repr

/-- The select flags in ARG1 of ALTER (Table 9-5). -/
def alterSelect (w : Word) : AlterSelect :=
  { rights := bitOf w 28, shared := bitOf w 29, domain := bitOf w 30, cls := bitOf w 31 }

/-- The access kind of a two-bit code: 0 READ, 1 WRITE, 2 and 3 undefined (R137, Table 9-5). -/
def accessOfCode (n : Nat) : AccessKind :=
  match n with
  | 0 => .read
  | 1 => .write
  | _ => .undefined

/-- The request kind of a two-bit code: 0 LOOKUP, 1 LOOKUP_PIN, 2 UNPIN, 3 undefined (Table 8-1). -/
def kindOfCode (n : Nat) : RequestKind :=
  match n with
  | 0 => .lookup
  | 1 => .lookupPin
  | 2 => .unpin
  | _ => .undefined

/-- The walk request of the window's LOOKUP: handle in ARG0, offset in ARG1, size and access kind in
ARG2, requester domain 0 (R76, Table 9-5). -/
def lookupRequest (args : Quad Word) : WalkRequest :=
  { origin := args.at0, offset := args.at1.toNat, size := bitsOf args.at2 0 9
    access := accessOfCode (bitsOf args.at2 16 2), kind := .lookup, domain := 0#4 }

/-- The three compared fields as ARG2 and ARG3 of SWEEP_START pack them (Table 9-5). -/
def sweepFields (w : Word) : SweepFields :=
  { cls := w.extractLsb' 0 8, domain := w.extractLsb' 8 4, shared := bitOf w 12 }

/-- The action of a two-bit code: 0 COUNT, 1 RETIRE, 2 RETAG, 3 none (Table 9-5). -/
def actionOfCode (n : Nat) : Option SweepAction :=
  match n with
  | 0 => some .count
  | 1 => some .retire
  | 2 => some .retag
  | _ => none

/-- The selection in the four argument words of SWEEP_START, with its action (R122, Table 9-5). -/
def selectionOf (args : Quad Word) (action : SweepAction) : Selection :=
  { startSlot := bitsOf args.at0 0 13
    endSlot := bitsOf args.at0 16 13
    states := args.at1.extractLsb' 0 5
    action := action
    newClass := args.at1.extractLsb' 16 8
    pattern := sweepFields args.at2
    care := sweepFields args.at3 }

/-- The request in a message's three words, with the domain of its port (R137, R138, Table 8-1). -/
def messageRequest (word0 word1 word2 : Word) (domain : BitVec 4) : WalkRequest :=
  { origin := word1, offset := bitsOf word2 0 24, size := bitsOf word0 16 9
    access := accessOfCode (bitsOf word0 8 2), kind := kindOfCode (bitsOf word0 0 2)
    domain := domain }

/-- The tag of a request message (Table 8-1). -/
def messageTag (word0 : Word) : BitVec 4 := word0.extractLsb' 4 4

/-! ### Request tests (R61, R141) -/

/-- The request tests of a walk (R61): true when the request is refused MALFORMED. The offset test can
fail only on the window, where the offset is a whole word. -/
def walkMalformed (r : WalkRequest) : Bool :=
  handleForm r.origin == .malformed || r.size == 0 || Config.maxSize < r.size
    || r.access == .undefined || 16777216 ≤ r.offset

/-- The tests a walk engine makes when it takes a link request (R141): true when it is refused
MALFORMED. -/
def linkMalformed (r : WalkRequest) : Bool :=
  match r.kind with
  | .undefined => true
  | .lookup | .lookupPin => walkMalformed r
  | .unpin => handleForm r.origin == .malformed || handleForm r.origin == .null

/-! ### Records -/

/-- The generation of a record (R9). -/
def Record.gen : Record → BitVec 8
  | .free g => g
  | .live g _ => g
  | .moving g _ => g
  | .forwarded g _ _ => g
  | .worn => Config.lastGen

/-- The class of a record, zero where it is absent (R5, Table 7-2). -/
def Record.cls : Record → BitVec 8
  | .live _ o => o.cls
  | .moving _ o => o.cls
  | .forwarded _ c _ => c
  | .free _ => 0#8
  | .worn => 0#8

/-- The object of a LIVE or MOVING record: the extent group and the class (R5). -/
def Record.object : Record → Option Object
  | .live _ o => some o
  | .moving _ o => some o
  | .free _ => none
  | .forwarded _ _ _ => none
  | .worn => none

/-- The handle that names the record of a slot now (R4). -/
def Record.handle (slot : Nat) (r : Record) : Handle := ⟨slot, r.gen⟩

/-- The state code of a record (Table 9-6), also its bit in a sweep's state set (Table 9-5). -/
def Record.stateCode : Record → Nat
  | .free _ => 0
  | .live _ _ => 1
  | .moving _ _ => 2
  | .forwarded _ _ _ => 3
  | .worn => 4

/-- The fields of a record that a sweep compares, zero where absent (R124, Table 7-2). -/
def Record.sweepFields (r : Record) : SweepFields :=
  match r.object with
  | some o => ⟨o.cls, o.ext.domain, o.ext.shared⟩
  | none => ⟨r.cls, 0#4, false⟩

/-! ### Results of READ_RECORD and LOOKUP (R160) -/

/-- RES0 of READ_RECORD (Table 9-6). -/
def recordRes0 (r : Record) : Word :=
  let extent := r.object.isSome
  let forward := r.stateCode == 3
  let pins := match r.object with
    | some o => o.pins
    | none => 0#8
  pins ++ r.cls ++ r.gen ++ 0#1 ++ bit1 forward ++ bit1 (extent || forward) ++ bit1 extent ++ 0#1
    ++ BitVec.ofNat 3 r.stateCode

/-- RES1 of READ_RECORD: base, or forward target word, or zero (R160, Table 9-6). -/
def recordRes1 : Record → Word
  | .live _ o => o.ext.base
  | .moving _ o => o.ext.base
  | .forwarded _ _ target => target.word
  | .free _ => 0#32
  | .worn => 0#32

/-- RES2 of READ_RECORD (Table 9-6). -/
def recordRes2 (r : Record) : Word :=
  match r.object with
  | some o => o.ext.domain ++ bit1 o.ext.shared ++ bit1 o.ext.rights.write ++ bit1 o.ext.rights.read
      ++ BitVec.ofNat 25 o.ext.length
  | none => 0#32

/-- RES2 of LOOKUP: hop count in bits 3:0, from-cache flag in bit 8 (R160). -/
def lookupRes2 (r : WalkResult) : Word :=
  0#23 ++ bit1 r.fromCache ++ 0#4 ++ BitVec.ofNat 4 r.hops

/-! ### The response message (Table 8-1) -/

/-- Word 0 of a response (Table 8-1). -/
def Response.word0 (r : Response) : Word :=
  0#11 ++ bit1 r.result.fromCache ++ BitVec.ofNat 4 r.result.hops ++ r.result.outcome.code ++ r.tag
    ++ 0#2 ++ BitVec.ofNat 2 r.port.val

/-- Word 1 of a response: the address (Table 8-1). -/
def Response.word1 (r : Response) : Word := r.result.address

/-- Word 2 of a response: the final handle (Table 8-1). -/
def Response.word2 (r : Response) : Word := r.result.final

/-! ### Status codes (Table 9-2) -/

/-- The gate field of STATUS. -/
def Gate.code : Gate → BitVec 2
  | .closed => 0#2
  | .draining => 1#2
  | .opened => 2#2

/-- The sweep state field of STATUS. -/
def SweepState.code : SweepState → BitVec 2
  | .idle => 0#2
  | .running => 1#2
  | .stopping => 2#2

/-- The sweep end kind field of STATUS. -/
def EndKind.code : EndKind → BitVec 2
  | .none => 0#2
  | .done => 1#2
  | .stopped => 2#2

/-! ### Configuration fields (Table 9-7) -/

/-- The value of a configuration field by its number; none above 5 (R164, Table 9-7). -/
def ConfigFields.read (c : ConfigFields) (field : Nat) : Option Nat :=
  match field with
  | 0 => some c.hopLimit
  | 1 => some (if c.shortcutEn then 1 else 0)
  | 2 => some (if c.cacheEn then 1 else 0)
  | 3 => some c.tickDiv
  | 4 => some c.moveWindow
  | 5 => some c.freeLowMark
  | _ => none

/-- Whether a value is in the range of a configuration field; false above 5 (R163, Table 9-7). -/
def configInRange (field value : Nat) : Bool :=
  match field with
  | 0 => 1 ≤ value && value ≤ 15
  | 1 => value ≤ 1
  | 2 => value ≤ 1
  | 3 => 1 ≤ value && value ≤ 255
  | 4 => 1 ≤ value && value ≤ 65535
  | 5 => value ≤ 4095
  | _ => false

/-- The configuration fields after a write of an in-range value to a field (R163, Table 9-7). -/
def ConfigFields.write (c : ConfigFields) (field value : Nat) : ConfigFields :=
  match field with
  | 0 => { c with hopLimit := value }
  | 1 => { c with shortcutEn := value == 1 }
  | 2 => { c with cacheEn := value == 1 }
  | 3 => { c with tickDiv := value }
  | 4 => { c with moveWindow := value }
  | 5 => { c with freeLowMark := value }
  | _ => c

end Sys2Proof.Machine
end

