-- ==== Sys2Proof/Machine/Flags.lean ====
section
/-! DEFINITION. The event flags, the interrupt and the words of the Control Window as they read
(R152, R153, R161, R162). -/

namespace Sys2Proof.Machine

open Sys2Proof

/-- The six event flags (R161). -/
inductive Event where
  | cmdDone | sweepEnd | moveLapsed | freeLow | linkQuiet | collide
  deriving DecidableEq, Repr

/-- The bit of a flag in EVENTS and EVENT_ENABLE, as a mask (R161, R162). -/
def Event.mask : Event → BitVec 6
  | .cmdDone => 0b000001#6
  | .sweepEnd => 0b000010#6
  | .moveLapsed => 0b000100#6
  | .freeLow => 0b001000#6
  | .linkQuiet => 0b010000#6
  | .collide => 0b100000#6

/-- The flags with one set; a flag that is set stays set (R161). -/
def raised (events : BitVec 6) (e : Event) : BitVec 6 := events ||| e.mask

/-- The flags after a write to EVENTS: each flag whose bit is 1 is cleared, bits 31:6 are ignored (R161). -/
def clearedBy (events : BitVec 6) (value : Word) : BitVec 6 := events &&& ~~~(value.extractLsb' 0 6)

/-- Whether a flag is set. -/
def State.flag (s : State) (e : Event) : Bool := s.events &&& e.mask != 0#6

/-- A step that sets an event flag (R161). -/
def State.raise (s : State) (e : Event) : State := { s with events := raised s.events e }

/-- Whether the IRQ output is active (R162): while some flag is set with its enable, and neither reset is
in progress. The pin itself is active low (R169). -/
def State.irqActive (s : State) : Bool :=
  s.phase == .running && s.events &&& s.eventEnable != 0#6

/-- The LINK_READY output, active high (R150): low while RESET is held and during a window reset. -/
def State.linkReady (s : State) : Bool := s.phase == .running

/-- BUSY: a command is in progress (R154). -/
def State.busy (s : State) : Bool := s.cmd.isSome

/-- The STATUS word (R153, Table 9-2). -/
def State.status (s : State) : Word :=
  s.lastCommand ++ 0#2 ++ s.sweep.endKind.code ++ s.sweep.state.code ++ s.gate.code
    ++ s.lastOutcome.code ++ 0#6 ++ bit1 (s.phase == .resetting) ++ bit1 s.busy

/-- The COUNTS word (R153, Table 9-2). -/
def State.counts (s : State) : Word :=
  0#4 ++ BitVec.ofNat 12 s.wornCount ++ 0#4 ++ BitVec.ofNat 12 s.freeQueue.length

/-- The SWEEP_COUNTS word (R153, Table 9-2). -/
def State.sweepCounts (s : State) : Word :=
  0#4 ++ BitVec.ofNat 12 s.sweep.acted ++ 0#4 ++ BitVec.ofNat 12 s.sweep.matched

/-- What a read of a window word gives (R152, R153). While RESET is held a read returns no defined data
(R165): no value. During a window reset the state already stands at its reset values, so the words read
so (R166). -/
def State.readWord (s : State) (w : WindowWord) : Option Word :=
  if s.phase = .held then none
  else some <| match w with
    | .command => 0#32
    | .arg0 => s.args.at0
    | .arg1 => s.args.at1
    | .arg2 => s.args.at2
    | .arg3 => s.args.at3
    | .res0 => s.results.res0
    | .res1 => s.results.res1
    | .res2 => s.results.res2
    | .status => s.status
    | .events => 0#26 ++ s.events
    | .eventEnable => 0#26 ++ s.eventEnable
    | .counts => s.counts
    | .sweepCursor => 0#19 ++ BitVec.ofNat 13 s.sweep.cursor
    | .sweepCounts => s.sweepCounts
    | .sweepSkipped => 0#20 ++ BitVec.ofNat 12 s.sweep.skipped
    | .epoch => 0#16 ++ s.epoch

/-- What a read of the window gives, by the word it selects (R152, Table 9-1). -/
def State.readAt (s : State) (select : BitVec 4) : Option Word := s.readWord (wordAt select)

/-- What the response channel presents: the head of the Response Queue, while LINK_READY is high
(R145, R150). -/
def State.responseChannel (s : State) : Option Response :=
  if s.linkReady then s.responses.head? else none

end Sys2Proof.Machine
end

