-- ==== Sys2Proof/Machine/Ops.lean ====
section
/-! DEFINITION. The named operations that the meanings share: numbered quads, the Record Store, the
Resolution Cache and epoch, the retire effect, release, the Directory Access Unit's grant, and the
submission and completion of commands. -/

namespace Sys2Proof.Machine

open Sys2Proof

/-! ### Quads -/

/-- The element of a quad with a given number. -/
def Quad.get {α : Type} (q : Quad α) (i : Fin 4) : α :=
  match i with
  | 0 => q.at0
  | 1 => q.at1
  | 2 => q.at2
  | 3 => q.at3

/-- A quad with one element replaced. -/
def Quad.set {α : Type} (q : Quad α) (i : Fin 4) (x : α) : Quad α :=
  match i with
  | 0 => { q with at0 := x }
  | 1 => { q with at1 := x }
  | 2 => { q with at2 := x }
  | 3 => { q with at3 := x }

/-- The numbers of a quad's elements, in order. -/
def quadIndices : List (Fin 4) := [0, 1, 2, 3]

/-- The lowest number whose element satisfies a test. -/
def Quad.find {α : Type} (q : Quad α) (p : α → Bool) : Option (Fin 4) :=
  quadIndices.find? (fun i => p (q.get i))

/-! ### The Record Store (R5, R13) -/

/-- The record of a slot: the one listed, or the reset record. -/
def recordIn (m : Store) (n : Nat) : Record :=
  match m with
  | [] => resetRecord
  | (k, r) :: rest => if k = n then r else recordIn rest n

/-- A store without a slot's entry. -/
def eraseSlot (m : Store) (n : Nat) : Store := m.filter (fun e => e.1 != n)

/-- An entry put before the first entry of a higher slot. -/
def insertSlot (m : Store) (n : Nat) (r : Record) : Store :=
  match m with
  | [] => [(n, r)]
  | (k, q) :: rest => if n < k then (n, r) :: (k, q) :: rest else (k, q) :: insertSlot rest n r

/-- The store after a write of one slot's record; writing the reset record removes the entry. -/
def putRecord (m : Store) (n : Nat) (r : Record) : Store :=
  if r = resetRecord then eraseSlot m n else insertSlot (eraseSlot m n) n r

/-- Entries rise strictly from a given slot on, and none holds the reset record. -/
def storeRises (low : Nat) (m : Store) : Bool :=
  match m with
  | [] => true
  | (k, r) :: rest => decide (low ≤ k) && r != resetRecord && storeRises (k + 1) rest

/-- The canonical form of the Record Store: strictly rising slots, no entry equal to the reset record. -/
def Store.wf (m : Store) : Bool := storeRises 0 m

/-- The record of a slot. -/
def State.record (s : State) (n : Nat) : Record := recordIn s.records n

/-- A write of a slot's record. -/
def State.setRecord (s : State) (n : Nat) (r : Record) : State :=
  { s with records := putRecord s.records n r }

/-! ### The Resolution Cache and the Forwarding Epoch (chapter 3) -/

/-- The entry for an origin handle (R46). -/
def cacheFind (cache : List CacheEntry) (origin : Handle) : Option CacheEntry :=
  cache.find? (fun e => e.origin == origin)

/-- The cache without the entry for an origin handle (R46). -/
def cacheDropOrigin (cache : List CacheEntry) (origin : Handle) : List CacheEntry :=
  cache.filter (fun e => e.origin != origin)

/-- The cache without the entries whose final slot is a given slot (R51). -/
def cacheDropFinal (cache : List CacheEntry) (n : Nat) : List CacheEntry :=
  cache.filter (fun e => e.final.slot != n)

/-- An entry at the most recent position, the others in their order: a hit (R45). -/
def cacheTouch (cache : List CacheEntry) (e : CacheEntry) : List CacheEntry :=
  e :: cacheDropOrigin cache e.origin

/-- A fill: the origin's own entry, or the least recent one of a full cache, makes room (R45). -/
def cacheFill (cache : List CacheEntry) (e : CacheEntry) : List CacheEntry :=
  (e :: cacheDropOrigin cache e.origin).take Config.cacheCapacity

/-- Removal of the entries whose final slot is `n` (R51). -/
def State.dropFinal (s : State) (n : Nat) : State := { s with cache := cacheDropFinal s.cache n }

/-- An increment of the Forwarding Epoch, which wraps at 65535 and empties the cache (R53, R57, R58). -/
def State.bumpEpoch (s : State) : State := { s with epoch := s.epoch + 1#16, cache := [] }

/-! ### Records and the named-record check -/

/-- The refusal of the named-record check, if any (R4): WORN, then STALE. -/
def namedCheck (h : Handle) (r : Record) : Option OutcomeCode :=
  match r with
  | .worn => some .worn
  | .free _ => some .stale
  | .live g _ => if g = h.gen then none else some .stale
  | .moving g _ => if g = h.gen then none else some .stale
  | .forwarded g _ _ => if g = h.gen then none else some .stale

/-- Whether the sum of a base and a length stays within the address space, formed without loss (R6). -/
def extentFits (base : Word) (length : Nat) : Bool :=
  base.toNat + length ≤ Config.addressSpace

/-- Whether a word is a legal length: a multiple of 16 in 16..16,777,216 (R6). -/
def legalLength (length : Nat) : Bool :=
  length % 16 == 0 && 16 ≤ length && length ≤ Config.maxLength

/-- Whether a word is a multiple of 16 (R6). -/
def aligned16 (w : Word) : Bool := w.toNat % 16 == 0

/-- The record at the end of a move: LIVE, at the given base, every other field kept (R113 to R115).
Only a MOVING record ends a move (R12). -/
def Record.endMove (r : Record) (base : Word) : Record :=
  match r with
  | .moving g o => .live g { o with ext := { o.ext with base := base } }
  | .free g => .free g
  | .live g o => .live g o
  | .forwarded g c t => .forwarded g c t
  | .worn => .worn

/-- The base a record holds: the old base of a MOVING record (R6); zero where absent (R5). -/
def Record.base (r : Record) : Word :=
  match r.object with
  | some o => o.ext.base
  | none => 0#32

/-! ### Retirement (R28) -/

/-- The record a retirement leaves (R28 steps 3 and 4). -/
def retiredRecord (gen : BitVec 8) : Record :=
  if gen = Config.lastGen then .worn else .free (gen + 1#8)

/-- Step 1 of the retire effect: cache removal for a LIVE record, an epoch increment for a forwarder. -/
def State.retireCacheAction (s : State) (n : Nat) (r : Record) : State :=
  match r with
  | .forwarded _ _ _ => s.bumpEpoch
  | _ => s.dropFinal n

/-- The retire effect on the record of slot `n` (R28), for RETIRE and sweep RETIRE. -/
def State.retire (s : State) (n : Nat) : State :=
  let r := s.record n
  let s1 := (s.retireCacheAction n r).setRecord n (retiredRecord r.gen)
  if r.gen = Config.lastGen then { s1 with wornCount := s1.wornCount + 1 }
  else { s1 with freeQueue := s1.freeQueue ++ [n] }

/-! ### Parking and release (R83, R118) -/

/-- Whether the Park List has room: it and the Release Queue together hold fewer than 8 (R83). -/
def State.parkRoom (s : State) : Bool :=
  s.parkList.length + s.releaseQueue.length < Config.parkPlaces

/-- A request parked at the tail of the Park List, with the slot it waits for (R110). -/
def State.park (s : State) (r : LinkRequest) (n : Nat) : State :=
  { s with parkList := s.parkList ++ [⟨r, n⟩] }

/-- The parked requests that wait for a slot, in park order (R118). -/
def waitingFor (park : List Parked) (n : Nat) : List LinkRequest :=
  (park.filter (fun p => p.slot == n)).map (fun p => p.request)

/-- The release that ends a move: the entries waiting for the slot go, in park order, to the tail of the
Release Queue (R118). -/
def State.release (s : State) (n : Nat) : State :=
  { s with
    releaseQueue := s.releaseQueue ++ waitingFor s.parkList n
    parkList := s.parkList.filter (fun p => p.slot != n) }

/-! ### The Move Table (R100) -/

/-- The slot of an entry that is not IDLE (R100). -/
def MoveEntry.names (e : MoveEntry) (n : Nat) : Bool :=
  match e with
  | .idle => false
  | .copying m _ _ => m == n
  | .lapsed m => m == n

/-- Whether an entry is IDLE. -/
def MoveEntry.isIdle (e : MoveEntry) : Bool := e == .idle

/-- Whether an entry is LAPSED on a slot. -/
def MoveEntry.lapsedOn (e : MoveEntry) (n : Nat) : Bool := e == .lapsed n

/-- The number of the entry that is not IDLE and names a slot (R112). -/
def State.moveOf (s : State) (n : Nat) : Option (Fin 4) := s.moves.find (fun e => e.names n)

/-- Whether the Move Table is empty (R35). -/
def State.movesEmpty (s : State) : Bool := quadIndices.all (fun i => (s.moves.get i).isIdle)

/-! ### The link (chapter 8) -/

/-- The number of requests in flight on all ports, the link in-flight count (R136). -/
def State.inFlight (s : State) : Nat :=
  s.ports.at0.tags.length + s.ports.at1.tags.length + s.ports.at2.tags.length
    + s.ports.at3.tags.length

/-- The drain condition (R149). -/
def State.drained (s : State) : Bool :=
  s.inFlight == 0 && s.engineA == .idle && s.engineB == .idle

/-- The test of the drain condition while the gate is DRAINING (R149). -/
def State.testDrain (s : State) : State :=
  if s.gate = .draining ∧ s.drained = true then { s with gate := .closed }.raise .linkQuiet else s

/-- A response placed at the tail of the Response Queue (R81). -/
def State.place (s : State) (r : LinkRequest) (result : WalkResult) : State :=
  { s with responses := s.responses ++ [⟨r.port, r.tag, result⟩] }

/-- The state of a walk engine. -/
def State.engine (s : State) (e : EngineId) : Engine :=
  match e with
  | .a => s.engineA
  | .b => s.engineB

/-- A walk engine put into a state. -/
def State.setEngine (s : State) (e : EngineId) (x : Engine) : State :=
  match e with
  | .a => { s with engineA := x }
  | .b => { s with engineB := x }

/-! ### The Directory Access Unit's grant (R39, R40) -/

/-- The client a walk engine is. -/
def engineClient : EngineId → Client
  | .a => .engineA
  | .b => .engineB

/-- The entries that have expired and whose expiry access has not been granted, oldest first: the pending
expiries, then those a tick has noted since (R39, R103; log 6). -/
def State.expiries (s : State) : List (Fin 4) := s.pendingExpiries ++ s.expired

/-- Whether a client has a request waiting (R39): whenever its work is unfinished. -/
def State.waiting (s : State) (c : Client) : Bool :=
  match c with
  | .commandUnit => s.cmd.isSome
  | .engineA => s.engineA != .idle
  | .engineB => s.engineB != .idle
  | .sweepUnit => s.sweep.state != .idle
  | .moveTimer => !s.expiries.isEmpty

/-- The rotation counted from the client after a given one (R40). -/
def rotationAfter : Client → List Client
  | .commandUnit => [.engineA, .engineB, .sweepUnit, .moveTimer, .commandUnit]
  | .engineA => [.engineB, .sweepUnit, .moveTimer, .commandUnit, .engineA]
  | .engineB => [.sweepUnit, .moveTimer, .commandUnit, .engineA, .engineB]
  | .sweepUnit => [.moveTimer, .commandUnit, .engineA, .engineB, .sweepUnit]
  | .moveTimer => [.commandUnit, .engineA, .engineB, .sweepUnit, .moveTimer]

/-- The client the Directory Access Unit grants next (R40); none while no request waits, and none during
either reset (R43). -/
def State.granted (s : State) : Option Client :=
  if s.phase = .running then (rotationAfter s.lastGranted).find? s.waiting else none

/-- A grant names its client as the last one granted (R38, R40). -/
def State.grant (s : State) (c : Client) : State := { s with lastGranted := c }

/-- One access of a client: made when the client is the one granted, which becomes the last one granted
(R40). DESIGN CHOICE (log 2): an access that is not granted changes nothing. -/
def State.access (s : State) (c : Client) (body : State → State) : State :=
  if s.granted = some c then body (s.grant c) else s

/-! ### Commands (R154 to R156) -/

/-- Results of zero, which every rule that gives no value for a result word implies (R155). -/
def noResults : Results := ⟨0#32, 0#32, 0#32⟩

/-- The completion of a command (R155). -/
def State.complete (s : State) (code : BitVec 8) (outcome : OutcomeCode) (results : Results) : State :=
  { s with
    cmd := none
    results := results
    lastOutcome := outcome
    lastCommand := code
    events := raised s.events .cmdDone }

/-- The completion of a command with zero in all result words. -/
def State.finish (s : State) (k : Cmd) (outcome : OutcomeCode) : State :=
  s.complete k.code outcome noResults

/-- A passing command, which keeps BUSY set and waits for its first access (R154). -/
def State.begin (s : State) (k : Cmd) (args : Quad Word) (phase : CmdPhase) : State :=
  { s with cmd := some ⟨k, args, phase⟩ }

/-- A write of COMMAND (R154, R156): ignored during either reset, refused with COLLIDE while BUSY, and
otherwise accepted with the argument words as they stand. -/
def State.submit (s : State) (accept : Quad Word → State → State) : State :=
  match s.phase with
  | .running => if s.busy then s.raise .collide else accept s.args s
  | .held => s
  | .resetting => s

/-- The single directory access of a command of a given kind (R39). DESIGN CHOICE (log 2): without such
a command in progress, nothing happens. -/
def State.commandAccess (s : State) (k : Cmd) (body : Quad Word → State → State) : State :=
  match s.cmd with
  | some c =>
    if c.cmd = k ∧ c.phase = .single then s.access .commandUnit (body c.args) else s
  | none => s

/-- Acceptance of a command whose only argument is a handle in ARG0: the form test of R3, then one
access. -/
def acceptHandle (k : Cmd) (args : Quad Word) (s : State) : State :=
  match handleArgument args.at0 with
  | .error o => s.finish k o
  | .ok _ => s.begin k args .single

/-- A window write other than COMMAND: taken unless a reset is in progress (R157, R165, R166). -/
def State.whenRunning (s : State) (write : State → State) : State :=
  match s.phase with
  | .running => write s
  | .held => s
  | .resetting => s

end Sys2Proof.Machine
end

