-- ==== Sys2Proof/Machine/Configuration.lean ====
section
/-! DEFINITION. SET_CONFIG, READ_CONFIG and the access of CACHE_EN (spec 09 section 9.4, R54). -/

namespace Sys2Proof.Machine

open Sys2Proof

/-- The number of CACHE_EN among the configuration fields (Table 9-7). -/
def cacheEnField : Nat := 2

/-- SET_CONFIG (R163): the field number, then the value, each a whole word; every field but CACHE_EN is
written at acceptance. -/
def execSetConfig (s : State) : Host.Outcome State Fault Refusal :=
  .next <| s.submit fun args s =>
    match s.config.read args.at0.toNat with
    | none => s.finish .setConfig .badArgument
    | some old =>
      if configInRange args.at0.toNat args.at1.toNat = false then s.finish .setConfig .badArgument
      else if args.at0.toNat = cacheEnField then s.begin .setConfig args .single
      else
        { s with config := s.config.write args.at0.toNat args.at1.toNat }.complete
          Cmd.setConfig.code .done ⟨wordOf old, 0#32, 0#32⟩

/-- The access of SET_CONFIG of CACHE_EN (R54, R163): the field takes its value, and writing clear empties
the cache. -/
def cacheEnBody (args : Quad Word) (s : State) : State :=
  let value := args.at1.toNat == 1
  { s with
    config := { s.config with cacheEn := value }
    cache := if value then s.cache else [] }.complete
      Cmd.setConfig.code .done ⟨wordOf (if s.config.cacheEn then 1 else 0), 0#32, 0#32⟩

/-- The directory access of SET_CONFIG of CACHE_EN. -/
def execCacheEnAccess (s : State) : Host.Outcome State Fault Refusal :=
  .next (s.commandAccess .setConfig cacheEnBody)

/-- READ_CONFIG (R164): completes at acceptance. -/
def execReadConfig (s : State) : Host.Outcome State Fault Refusal :=
  .next <| s.submit fun args s =>
    match s.config.read args.at0.toNat with
    | none => s.finish .readConfig .badArgument
    | some value => s.complete Cmd.readConfig.code .done ⟨wordOf value, 0#32, 0#32⟩

end Sys2Proof.Machine
end

