-- ==== Sys2Proof/Machine/Records.lean ====
section
/-! DEFINITION. Allocation, retirement, pins, ALTER, RESIZE, READ_RECORD and CLEAR_DIRECTORY: spec 01
sections 1.4 to 1.6 and spec 02. -/

namespace Sys2Proof.Machine

open Sys2Proof

/-! ### CREATE (R24, R25) -/

/-- The acceptance tests of CREATE (R24). -/
def createArgumentsOk (args : Quad Word) : Bool :=
  let p := packedFields args.at2
  aligned16 args.at0 && legalLength args.at1.toNat && extentFits args.at0 args.at1.toNat
    && p.domain ≤ 15 && p.cls ≤ 255

/-- The object a CREATE's arguments describe, with pin count 0 (R25). -/
def createdObject (args : Quad Word) : Object :=
  let p := packedFields args.at2
  { ext := { base := args.at0, length := args.at1.toNat, rights := p.rights, shared := p.shared
             domain := BitVec.ofNat 4 p.domain }
    cls := BitVec.ofNat 8 p.cls
    pins := 0#8 }

/-- Submission of CREATE (R24). -/
def execCreate (s : State) : Host.Outcome State Fault Refusal :=
  .next <| s.submit fun args s =>
    if createArgumentsOk args then s.begin .create args .single else s.finish .create .badArgument

/-- FREE_LOW after a removal from a queue of a given length (R22): the mark is above 0, the length before
the removal is at least the mark, and the length after it is below. -/
def crossesFreeLow (mark before : Nat) : Bool :=
  0 < mark && mark ≤ before && before - 1 < mark

/-- The access of CREATE (R25). -/
def createBody (args : Quad Word) (s : State) : State :=
  match s.freeQueue with
  | [] => s.finish .create .noSlot
  | n :: rest =>
    let g := (s.record n).gen
    let s1 := { s.setRecord n (.live g (createdObject args)) with freeQueue := rest }
    let s2 := if crossesFreeLow s.config.freeLowMark s.freeQueue.length then s1.raise .freeLow else s1
    s2.complete Cmd.create.code .done ⟨(Handle.mk n g).word, wordOf rest.length, 0#32⟩

/-- The directory access of CREATE (R25). -/
def execCreateAccess (s : State) : Host.Outcome State Fault Refusal :=
  .next (s.commandAccess .create createBody)

/-! ### RETIRE (R27, R28, R31) -/

/-- Submission of RETIRE (R27). -/
def execRetire (s : State) : Host.Outcome State Fault Refusal :=
  .next (s.submit (acceptHandle .retire))

/-- The refusal of RETIRE and of FORWARD's from access, if any (R27, R88): the named-record check, then
MOVING, then PINNED. -/
def retireRefusal (h : Handle) (r : Record) : Option OutcomeCode :=
  match namedCheck h r with
  | some o => some o
  | none =>
    match r with
    | .moving _ _ => some .moving
    | .live _ o => if o.pins = 0#8 then none else some .pinned
    | .forwarded _ _ _ => none
    | .free _ => none
    | .worn => none

/-- The access of RETIRE (R27, R28, R31). -/
def retireBody (args : Quad Word) (s : State) : State :=
  let h := Handle.ofWord args.at0
  match retireRefusal h (s.record h.slot) with
  | some o => s.finish .retire o
  | none =>
    let t := s.retire h.slot
    t.complete Cmd.retire.code .done
      ⟨wordOf (t.record h.slot).gen.toNat, wordOf t.freeQueue.length, wordOf t.wornCount⟩

/-- The directory access of RETIRE. -/
def execRetireAccess (s : State) : Host.Outcome State Fault Refusal :=
  .next (s.commandAccess .retire retireBody)

/-! ### PIN and UNPIN of the window (R32, R33) -/

/-- Submission of PIN (R32). -/
def execPin (s : State) : Host.Outcome State Fault Refusal :=
  .next (s.submit (acceptHandle .pin))

/-- Submission of UNPIN (R33). -/
def execUnpin (s : State) : Host.Outcome State Fault Refusal :=
  .next (s.submit (acceptHandle .unpin))

/-- The object of a LIVE record that a window PIN or UNPIN may act on, or the refusal: the named-record
check, then MOVING, then NOT_LIVE (R32, R33). -/
def pinTarget (h : Handle) (r : Record) : Except OutcomeCode Object :=
  match namedCheck h r with
  | some o => .error o
  | none =>
    match r with
    | .moving _ _ => .error .moving
    | .live _ o => .ok o
    | .forwarded _ _ _ => .error .notLive
    | .free _ => .error .stale
    | .worn => .error .worn

/-- The access of PIN (R32). -/
def pinBody (args : Quad Word) (s : State) : State :=
  let h := Handle.ofWord args.at0
  match pinTarget h (s.record h.slot) with
  | .error o => s.finish .pin o
  | .ok o =>
    if o.pins = Config.maxPins then s.finish .pin .pinLimit
    else
      (s.setRecord h.slot (.live h.gen { o with pins := o.pins + 1#8 })).complete Cmd.pin.code .done
        ⟨wordOf (o.pins.toNat + 1), 0#32, 0#32⟩

/-- The directory access of the window's PIN. -/
def execPinAccess (s : State) : Host.Outcome State Fault Refusal :=
  .next (s.commandAccess .pin pinBody)

/-- The access of UNPIN (R33). -/
def unpinBody (args : Quad Word) (s : State) : State :=
  let h := Handle.ofWord args.at0
  match pinTarget h (s.record h.slot) with
  | .error o => s.finish .unpin o
  | .ok o =>
    if o.pins = 0#8 then s.finish .unpin .unpinUnderflow
    else
      (s.setRecord h.slot (.live h.gen { o with pins := o.pins - 1#8 })).complete Cmd.unpin.code .done
        ⟨wordOf (o.pins.toNat - 1), 0#32, 0#32⟩

/-- The directory access of the window's UNPIN. -/
def execUnpinAccess (s : State) : Host.Outcome State Fault Refusal :=
  .next (s.commandAccess .unpin unpinBody)

/-! ### CLEAR_DIRECTORY (R35 to R37) -/

/-- Submission of CLEAR_DIRECTORY (R35). -/
def execClearDirectory (s : State) : Host.Outcome State Fault Refusal :=
  .next (s.submit fun args s => s.begin .clearDirectory args .single)

/-- The sum of the failed preconditions' values (R35). -/
def clearBlockers (s : State) : Nat :=
  (if s.gate = .closed then 0 else 1) + (if s.sweep.state = .idle then 0 else 2)
    + (if s.movesEmpty then 0 else 4)

/-- The clear access (R35 to R37). -/
def clearBody (_ : Quad Word) (s : State) : State :=
  if clearBlockers s ≠ 0 then
    s.complete Cmd.clearDirectory.code .busy ⟨wordOf (clearBlockers s), 0#32, 0#32⟩
  else
    { s with records := [], freeQueue := allSlots, wornCount := 0, cache := [], epoch := 0#16 }.complete
      Cmd.clearDirectory.code .done ⟨wordOf s.wornCount, wordOf s.freeQueue.length, 0#32⟩

/-- The clear access of CLEAR_DIRECTORY. -/
def execClearAccess (s : State) : Host.Outcome State Fault Refusal :=
  .next (s.commandAccess .clearDirectory clearBody)

/-! ### ALTER (R14, R15) -/

/-- The tests of ALTER's packed word (R14 tests 2 and 3). -/
def alterArgumentsOk (w : Word) : Bool :=
  let sel := alterSelect w
  let p := packedFields w
  (sel.rights || sel.shared || sel.domain || sel.cls)
    && (!sel.domain || p.domain ≤ 15) && (!sel.cls || p.cls ≤ 255)

/-- Submission of ALTER (R14). -/
def execAlter (s : State) : Host.Outcome State Fault Refusal :=
  .next <| s.submit fun args s =>
    match handleArgument args.at0 with
    | .error o => s.finish .alter o
    | .ok _ =>
      if alterArgumentsOk args.at1 then s.begin .alter args .single else s.finish .alter .badArgument

/-- An object with the selected fields replaced (R15). -/
def alteredObject (w : Word) (o : Object) : Object :=
  let sel := alterSelect w
  let p := packedFields w
  { ext := { o.ext with
      rights := if sel.rights then p.rights else o.ext.rights
      shared := if sel.shared then p.shared else o.ext.shared
      domain := if sel.domain then BitVec.ofNat 4 p.domain else o.ext.domain }
    cls := if sel.cls then BitVec.ofNat 8 p.cls else o.cls
    pins := o.pins }

/-- The cache action of ALTER: removal by final slot when rights, shared or owner domain is selected
(R15). -/
def State.alterCacheAction (s : State) (w : Word) (n : Nat) : State :=
  let sel := alterSelect w
  if sel.rights || sel.shared || sel.domain then s.dropFinal n else s

/-- The access of ALTER (R15). -/
def alterBody (args : Quad Word) (s : State) : State :=
  let h := Handle.ofWord args.at0
  let r := s.record h.slot
  match namedCheck h r with
  | some o => s.finish .alter o
  | none =>
    match r with
    | .live g o =>
      ((s.setRecord h.slot (.live g (alteredObject args.at1 o))).alterCacheAction args.at1 h.slot).finish
        .alter .done
    | .moving g o =>
      ((s.setRecord h.slot (.moving g (alteredObject args.at1 o))).alterCacheAction args.at1 h.slot).finish
        .alter .done
    | .forwarded _ _ _ => s.finish .alter .notLive
    | .free _ => s.finish .alter .stale
    | .worn => s.finish .alter .worn

/-- The directory access of ALTER. -/
def execAlterAccess (s : State) : Host.Outcome State Fault Refusal :=
  .next (s.commandAccess .alter alterBody)

/-! ### RESIZE (R16) -/

/-- Submission of RESIZE (R16). -/
def execResize (s : State) : Host.Outcome State Fault Refusal :=
  .next <| s.submit fun args s =>
    match handleArgument args.at0 with
    | .error o => s.finish .resize o
    | .ok _ =>
      if legalLength args.at1.toNat then s.begin .resize args .single
      else s.finish .resize .badArgument

/-- The access of RESIZE (R16). -/
def resizeBody (args : Quad Word) (s : State) : State :=
  let h := Handle.ofWord args.at0
  let r := s.record h.slot
  match namedCheck h r with
  | some o => s.finish .resize o
  | none =>
    match r with
    | .live g o =>
      if extentFits o.ext.base args.at1.toNat then
        ((s.setRecord h.slot
            (.live g { o with ext := { o.ext with length := args.at1.toNat } })).dropFinal h.slot).complete
          Cmd.resize.code .done ⟨wordOf o.ext.length, 0#32, 0#32⟩
      else s.finish .resize .badArgument
    | .moving _ _ => s.finish .resize .moving
    | .forwarded _ _ _ => s.finish .resize .notLive
    | .free _ => s.finish .resize .stale
    | .worn => s.finish .resize .worn

/-- The directory access of RESIZE. -/
def execResizeAccess (s : State) : Host.Outcome State Fault Refusal :=
  .next (s.commandAccess .resize resizeBody)

/-! ### READ_RECORD (R17, R18) -/

/-- Submission of READ_RECORD (R17): the slot number is the whole of ARG0. -/
def execReadRecord (s : State) : Host.Outcome State Fault Refusal :=
  .next <| s.submit fun args s =>
    if 1 ≤ args.at0.toNat ∧ args.at0.toNat ≤ Config.lastSlot then s.begin .readRecord args .single
    else s.finish .readRecord .badArgument

/-- The access of READ_RECORD (R17, R160). -/
def readRecordBody (args : Quad Word) (s : State) : State :=
  let r := s.record args.at0.toNat
  s.complete Cmd.readRecord.code .done ⟨recordRes0 r, recordRes1 r, recordRes2 r⟩

/-- The directory access of READ_RECORD. -/
def execReadRecordAccess (s : State) : Host.Outcome State Fault Refusal :=
  .next (s.commandAccess .readRecord readRecordBody)

end Sys2Proof.Machine
end

