-- ==== Sys2Proof/Machine/Forwarding.lean ====
section
/-! DEFINITION. The FORWARD command: acceptance, from access, check walk, final access (spec 05). -/

namespace Sys2Proof.Machine

open Sys2Proof

/-- Submission of FORWARD (R86): `from`, then `to`, then the two slots. The refusal CYCLE reports the
`to` handle word and 1 (R91). -/
def execForward (s : State) : Host.Outcome State Fault Refusal :=
  .next <| s.submit fun args s =>
    match handleArgument args.at0 with
    | .error o => s.finish .forward o
    | .ok source =>
      match handleForm args.at1 with
      | .malformed => s.finish .forward .badArgument
      | .null => s.finish .forward .badArgument
      | .named target =>
        if target.slot = source.slot then
          s.complete Cmd.forward.code .cycle ⟨args.at1, wordOf 1, 0#32⟩
        else s.begin .forward args (.fromCheck source target)

/-- The from access (R88): the checks of RETIRE, and on a pass the epoch snapshot. -/
def fromBody (c : Command) (source target : Handle) (s : State) : State :=
  match retireRefusal source (s.record source.slot) with
  | some o => s.finish .forward o
  | none => { s with cmd := some { c with phase := .checkWalk source target s.epoch target 1 } }

/-- The from access of FORWARD. -/
def execFromAccess (s : State) : Host.Outcome State Fault Refusal :=
  .next <| match s.cmd with
    | some c =>
      match c.phase with
      | .fromCheck source target => s.access .commandUnit (fromBody c source target)
      | _ => s
    | none => s

/-- The judgement of the check walk at hop `k` (R89): a refusal, the next handle of a hop, or a pass. -/
inductive CheckStep where
  | refuse (o : OutcomeCode)
  | hop (target : Handle)
  | pass
  deriving DecidableEq, Repr

/-- The checks of R89 in order, on the record read at the current handle. -/
def checkStep (source current : Handle) (k : Nat) (r : Record) : CheckStep :=
  match r with
  | .worn => .refuse .worn
  | .free _ => .refuse .dangling
  | .live g _ =>
    if g ≠ current.gen then .refuse .dangling
    else if current.slot = source.slot ∧ g = source.gen then .refuse .cycle
    else .pass
  | .moving g _ =>
    if g ≠ current.gen then .refuse .dangling
    else if current.slot = source.slot ∧ g = source.gen then .refuse .cycle
    else .pass
  | .forwarded g _ target =>
    if g ≠ current.gen then .refuse .dangling
    else if current.slot = source.slot ∧ g = source.gen then .refuse .cycle
    else if k < Config.checkWalkLimit then .hop target
    else .refuse .deep

/-- One access of the check walk (R89, R91). It reads only. -/
def checkBody (c : Command) (source target : Handle) (snapshot : BitVec 16) (current : Handle) (k : Nat)
    (s : State) : State :=
  match checkStep source current k (s.record current.slot) with
  | .refuse o => s.complete Cmd.forward.code o ⟨current.word, wordOf k, 0#32⟩
  | .hop h => { s with cmd := some { c with phase := .checkWalk source target snapshot h (k + 1) } }
  | .pass => { s with cmd := some { c with phase := .final source target snapshot current k } }

/-- An access of FORWARD's check walk. -/
def execCheckWalkAccess (s : State) : Host.Outcome State Fault Refusal :=
  .next <| match s.cmd with
    | some c =>
      match c.phase with
      | .checkWalk source target snapshot current k =>
        s.access .commandUnit (checkBody c source target snapshot current k)
      | _ => s
    | none => s

/-- The class FORWARD keeps, when the record passes the guards of R92: LIVE with pin count 0, or
FORWARDED, at `from`'s generation. -/
def forwardable (source : Handle) (r : Record) : Option (BitVec 8) :=
  match r with
  | .live g o => if g = source.gen ∧ o.pins = 0#8 then some o.cls else none
  | .forwarded g c _ => if g = source.gen then some c else none
  | .moving _ _ => none
  | .free _ => none
  | .worn => none

/-- The cache removal of the final access, made when the record was LIVE (R93 step 2). -/
def State.forwardCacheAction (s : State) (n : Nat) (r : Record) : State :=
  match r with
  | .live _ _ => s.dropFinal n
  | _ => s

/-- The final access (R92, R93). -/
def finalBody (source target : Handle) (snapshot : BitVec 16) (finalHandle : Handle) (k : Nat)
    (s : State) : State :=
  let r := s.record source.slot
  match forwardable source r with
  | none => s.finish .forward .contended
  | some cls =>
    if s.epoch ≠ snapshot then s.finish .forward .contended
    else
      let t := ((s.setRecord source.slot (.forwarded source.gen cls target)).forwardCacheAction
        source.slot r).bumpEpoch
      t.complete Cmd.forward.code .done ⟨finalHandle.word, wordOf k, wordOf t.epoch.toNat⟩

/-- The final access of FORWARD. -/
def execForwardFinalAccess (s : State) : Host.Outcome State Fault Refusal :=
  .next <| match s.cmd with
    | some c =>
      match c.phase with
      | .final source target snapshot finalHandle k =>
        s.access .commandUnit (finalBody source target snapshot finalHandle k)
      | _ => s
    | none => s

end Sys2Proof.Machine
end

