-- ==== Sys2Proof/Machine/Link.lean ====
section
/-! DEFINITION. The Lookup Link: requests, responses, port domains and the gate (spec 08). -/

namespace Sys2Proof.Machine

open Sys2Proof

/-- The acknowledge a request gets, tested in the order of R138. -/
def State.acknowledge (s : State) (port : Fin 4) (tag : BitVec 4) : AckResult :=
  if s.gate ≠ .opened then .closed
  else if (s.ports.get port).credits = 0 then .noCredit
  else if (s.ports.get port).tags.contains tag then .dupTag
  else .accepted

/-- An accepted request: one credit taken, the tag in flight, the request at the Lookup Queue tail with
its port's domain (R138). -/
def State.acceptRequest (s : State) (r : LinkRequest) : State :=
  let p := s.ports.get r.port
  { s with
    ports := s.ports.set r.port { credits := p.credits - 1, tags := p.tags ++ [r.tag] }
    lookupQueue := s.lookupQueue ++ [r] }

/-- A request message presented on a port (R138). It is not seen while LINK_READY is low (R150). A
refused request changes no state of the part but the acknowledge it is given (log 9). -/
def execLinkRequest (port : Fin 4) (word0 word1 word2 : Word) (s : State) :
    Host.Outcome State Fault Refusal :=
  .next <| s.whenRunning fun s =>
    let ack := s.acknowledge port (messageTag word0)
    let t := { s with acks := s.acks.set port (some ack) }
    if ack = .accepted then
      t.acceptRequest
        { port := port, tag := messageTag word0
          req := messageRequest word0 word1 word2 (s.portDomains.get port) }
    else t

/-- The acceptance of a response: its credit and tag return, and the drain condition is tested (R145). -/
def State.acceptResponse (s : State) (r : Response) (rest : List Response) : State :=
  let p := s.ports.get r.port
  { s with
    responses := rest
    ports := s.ports.set r.port { credits := p.credits + 1, tags := p.tags.erase r.tag } }.testDrain

/-- The acceptance of the head of the Response Queue by its requester (R145). Nothing is presented while
the queue is empty or LINK_READY is low (R150). -/
def execResponseAccept (s : State) : Host.Outcome State Fault Refusal :=
  .next <| s.whenRunning fun s =>
    match s.responses with
    | [] => s
    | r :: rest => s.acceptResponse r rest

/-- LINK_OPEN (R147): completes at acceptance. -/
def execLinkOpen (s : State) : Host.Outcome State Fault Refusal :=
  .next <| s.submit fun _ s => { s with gate := .opened }.finish .linkOpen .done

/-- The gate after LINK_CLOSE (R148): from OPEN to DRAINING, with the drain condition tested at once. -/
def State.closeGate (s : State) : State :=
  match s.gate with
  | .opened => { s with gate := .draining }.testDrain
  | .draining => s
  | .closed => s

/-- LINK_CLOSE (R148): completes at acceptance and reports the link in-flight count. -/
def execLinkClose (s : State) : Host.Outcome State Fault Refusal :=
  .next <| s.submit fun _ s =>
    s.closeGate.complete Cmd.linkClose.code .done ⟨wordOf s.inFlight, 0#32, 0#32⟩

/-- SET_PORT_DOMAIN (R146): completes at acceptance. -/
def execSetPortDomain (s : State) : Host.Outcome State Fault Refusal :=
  .next <| s.submit fun args s =>
    if h : args.at0.toNat < 4 then
      let port : Fin 4 := ⟨args.at0.toNat, h⟩
      if 1 ≤ args.at1.toNat ∧ args.at1.toNat ≤ 15 then
        { s with portDomains := s.portDomains.set port (BitVec.ofNat 4 args.at1.toNat) }.complete
          Cmd.setPortDomain.code .done ⟨wordOf (s.portDomains.get port).toNat, 0#32, 0#32⟩
      else s.finish .setPortDomain .badArgument
    else s.finish .setPortDomain .badArgument

end Sys2Proof.Machine
end

