-- ==== Sys2Proof/Machine/Relocation.lean ====
section
/-! DEFINITION. Relocation: MOVE_BEGIN, MOVE_COMMIT, MOVE_ABORT, the Move Timer, the expiry and the lapse
(spec 06). -/

namespace Sys2Proof.Machine

open Sys2Proof

/-! ### MOVE_BEGIN (R105 to R107) -/

/-- Submission of MOVE_BEGIN (R105). -/
def execMoveBegin (s : State) : Host.Outcome State Fault Refusal :=
  .next <| s.submit fun args s =>
    match handleArgument args.at0 with
    | .error o => s.finish .moveBegin o
    | .ok _ =>
      if aligned16 args.at1 then s.begin .moveBegin args .single
      else s.finish .moveBegin .badArgument

/-- The entry a MOVE_BEGIN may take, or the refusal of the checks of R106 from check 6 on. -/
def moveBeginEntry (s : State) (n : Nat) (newBase : Word) (o : Object) : Except OutcomeCode (Fin 4) :=
  if extentFits newBase o.ext.length = false then .error .badArgument
  else if (s.moves.find (fun e => e.lapsedOn n)).isSome then .error .lapsed
  else
    match s.moves.find MoveEntry.isIdle with
    | none => .error .moveTableFull
    | some i => .ok i

/-- The opening of a move (R107). -/
def State.openMove (s : State) (h : Handle) (o : Object) (i : Fin 4) (newBase : Word) : State :=
  { s.setRecord h.slot (.moving h.gen o) with
    moves := s.moves.set i (.copying h.slot newBase s.config.moveWindow) }.dropFinal h.slot

/-- The access of MOVE_BEGIN (R106, R107). -/
def moveBeginBody (args : Quad Word) (s : State) : State :=
  let h := Handle.ofWord args.at0
  let r := s.record h.slot
  match namedCheck h r with
  | some o => s.finish .moveBegin o
  | none =>
    match r with
    | .moving _ _ => s.finish .moveBegin .moving
    | .forwarded _ _ _ => s.finish .moveBegin .notLive
    | .free _ => s.finish .moveBegin .stale
    | .worn => s.finish .moveBegin .worn
    | .live _ o =>
      if o.pins ≠ 0#8 then s.finish .moveBegin .pinned
      else
        match moveBeginEntry s h.slot args.at1 o with
        | .error out => s.finish .moveBegin out
        | .ok i =>
          (s.openMove h o i args.at1).complete Cmd.moveBegin.code .done
            ⟨o.ext.base, wordOf o.ext.length, wordOf s.config.moveWindow⟩

/-- The directory access of MOVE_BEGIN. -/
def execMoveBeginAccess (s : State) : Host.Outcome State Fault Refusal :=
  .next (s.commandAccess .moveBegin moveBeginBody)

/-! ### MOVE_COMMIT and MOVE_ABORT (R112 to R114, R117) -/

/-- Submission of MOVE_COMMIT (R112). -/
def execMoveCommit (s : State) : Host.Outcome State Fault Refusal :=
  .next (s.submit (acceptHandle .moveCommit))

/-- Submission of MOVE_ABORT (R112). -/
def execMoveAbort (s : State) : Host.Outcome State Fault Refusal :=
  .next (s.submit (acceptHandle .moveAbort))

/-- The end of a move by commit, abort or lapse: the record LIVE at a base, the entry in its new state,
the parked requests released (R113 to R115). -/
def State.endMove (s : State) (n : Nat) (base : Word) (i : Fin 4) (entry : MoveEntry) : State :=
  { s.setRecord n ((s.record n).endMove base) with moves := s.moves.set i entry }.release n

/-- Cases 2 to 4 of R112: no Move Table entry names the slot. -/
def noMoveOutcome (h : Handle) (r : Record) : OutcomeCode :=
  match namedCheck h r with
  | some o => o
  | none => .notMoving

/-- The access of MOVE_COMMIT or MOVE_ABORT, by the case table of R112. A case 6 ends the move at the base
`base` picks from the record's base and the entry's new base. -/
def endMoveBody (k : Cmd) (base : Word → Word → Word) (args : Quad Word) (s : State) : State :=
  let h := Handle.ofWord args.at0
  let r := s.record h.slot
  match s.moveOf h.slot with
  | none => s.finish k (noMoveOutcome h r)
  | some i =>
    match s.moves.get i with
    | .idle => s.finish k (noMoveOutcome h r)
    | .lapsed _ => { s with moves := s.moves.set i .idle }.finish k .lapsed
    | .copying _ newBase remaining =>
      if r.gen ≠ h.gen then s.finish k .stale
      else
        (s.endMove h.slot (base r.base newBase) i .idle).complete k.code .done
          ⟨base r.base newBase, wordOf (waitingFor s.parkList h.slot).length, wordOf remaining⟩

/-- The directory access of MOVE_COMMIT (R112, R113, R117): the move ends at the new base. -/
def execMoveCommitAccess (s : State) : Host.Outcome State Fault Refusal :=
  .next (s.commandAccess .moveCommit (endMoveBody .moveCommit fun _ newBase => newBase))

/-- The directory access of MOVE_ABORT (R112, R114, R117): the move ends at the old base. -/
def execMoveAbortAccess (s : State) : Host.Outcome State Fault Refusal :=
  .next (s.commandAccess .moveAbort (endMoveBody .moveAbort fun oldBase _ => oldBase))

/-! ### The Move Timer (R102, R103, R115) -/

/-- An entry after a tick (R103): a COPYING count above 0 is lowered by one. -/
def MoveEntry.afterTick (e : MoveEntry) : MoveEntry :=
  match e with
  | .copying n b (k + 1) => .copying n b k
  | .copying n b 0 => .copying n b 0
  | .idle => .idle
  | .lapsed n => .lapsed n

/-- Whether the next tick brings an entry's count to 0 (R103). -/
def MoveEntry.expiresNow (e : MoveEntry) : Bool :=
  match e with
  | .copying _ _ k => k == 1
  | .idle => false
  | .lapsed _ => false

/-- Whether an expiry of an entry waits for its access already (R103). -/
def State.expiryKnown (s : State) (i : Fin 4) : Bool := s.expiries.contains i

/-- A tick (R102, R103): the cycle counter begins again under the TICK_DIV of now, each COPYING count
above 0 falls by one, and the entries that reach 0 have expired, in ascending order: the Move Timer asks
for their accesses from now on (R39). No second expiry is noted for an entry. -/
def State.deliverTick (s : State) : State :=
  { s with
    cycles := 0
    interval := s.config.tickDiv
    moves := ⟨s.moves.at0.afterTick, s.moves.at1.afterTick, s.moves.at2.afterTick,
      s.moves.at3.afterTick⟩
    expired := s.expired ++
      quadIndices.filter (fun i => (s.moves.get i).expiresNow && !s.expiryKnown i) }

/-- TICK (R102): no cycle is counted while RESET is held or a window reset is in progress. DESIGN CHOICE
(log 5): the event stands for the cycles left in the present interval. -/
def execTick (s : State) : Host.Outcome State Fault Refusal :=
  .next (s.whenRunning State.deliverTick)

/-- One core-clock cycle of the Move Timer's counter, which delivers a tick when its count reaches the
value under which the interval began (R102). -/
def State.clockCycle (s : State) : State :=
  s.whenRunning fun s =>
    if s.cycles + 1 < s.interval then { s with cycles := s.cycles + 1 } else s.deliverTick

/-- EXPIRY (R103): the oldest expiry that a tick has noted joins the pending expiries, unless one is
recorded for its entry already. DESIGN CHOICE (log 6): the tick has raised its request, so this row only
moves it from the noted to the recorded ones. -/
def execExpiry (s : State) : Host.Outcome State Fault Refusal :=
  .next <| s.whenRunning fun s =>
    match s.expired with
    | [] => s
    | i :: rest =>
      { s with
        expired := rest
        pendingExpiries :=
          if s.pendingExpiries.contains i then s.pendingExpiries else s.pendingExpiries ++ [i] }

/-- The lapse of a move, if the entry is COPYING with a count of 0; otherwise nothing (R115, R120). -/
def State.expireEntry (s : State) (i : Fin 4) : State :=
  match s.moves.get i with
  | .copying n _ 0 => (s.endMove n (s.record n).base i (.lapsed n)).raise .moveLapsed
  | .copying _ _ (_ + 1) => s
  | .idle => s
  | .lapsed _ => s

/-- The expiry access of the oldest expiry (R103, R115). Those behind it are pending from then on, in
their order. -/
def execExpiryAccess (s : State) : Host.Outcome State Fault Refusal :=
  .next <| match s.expiries with
    | [] => s
    | i :: rest =>
      s.access .moveTimer fun s => { s.expireEntry i with pendingExpiries := rest, expired := [] }

end Sys2Proof.Machine
end

