-- ==== Sys2Proof/Machine/Resets.lean ====
section
/-! DEFINITION. The two resets (spec 09 section 9.5). -/

namespace Sys2Proof.Machine

open Sys2Proof

/-- Every block in its power-on reset state (R165, Table 9-8). The queue of what has not happened yet is
the model's own and no block of the part. -/
def State.powerOn (s : State) : State := { State.reset with pending := s.pending }

/-- The RESET input becomes held (R165): no access, no window access, no link traffic, IRQ inactive and
LINK_READY low, and everything in progress is abandoned (R94, R151). DESIGN CHOICE (log 7): the blocks
stand at their power-on reset values while RESET is held, where nothing can see them. -/
def execResetAssert (s : State) : Host.Outcome State Fault Refusal :=
  .next { s.powerOn with phase := .held }

/-- The RESET input is released (R165): every block takes its power-on reset state, and LINK_READY
rises (R150). -/
def execResetRelease (s : State) : Host.Outcome State Fault Refusal :=
  .next <| match s.phase with
    | .held => s.powerOn
    | .running => s
    | .resetting => s

/-- The state a window reset gives every block (R167, Table 9-8): the reset state, but for the Port
Domain Table, the configuration fields and EVENT_ENABLE. The cycle counter begins again at zero under
the kept TICK_DIV (log 12). -/
def State.windowResetState (s : State) : State :=
  { s.powerOn with
    portDomains := s.portDomains
    config := s.config
    eventEnable := s.eventEnable
    interval := s.config.tickDiv }

/-- A write of WINDOW_RESET (R152, R166): with bit 0 set it starts a window reset, with bit 0 clear it has
no effect, and during either reset it is lost. -/
def execWindowReset (value : Word) (s : State) : Host.Outcome State Fault Refusal :=
  .next <| s.whenRunning fun s =>
    if bitOf value 0 then { s.windowResetState with phase := .resetting } else s

/-- The window reset is complete (R166): RESETTING clears and LINK_READY rises. -/
def execWindowResetComplete (s : State) : Host.Outcome State Fault Refusal :=
  .next <| match s.phase with
    | .resetting => { s with phase := .running }
    | .running => s
    | .held => s

end Sys2Proof.Machine
end

