-- ==== Sys2Proof/Machine/Sweeps.lean ====
section
/-! DEFINITION. Sweeps: SWEEP_START, SWEEP_STOP and the visit (spec 07). -/

namespace Sys2Proof.Machine

open Sys2Proof

/-- Whether a state set holds FREE or WORN (R122 test 5). -/
def statesHoldFreeOrWorn (states : BitVec 5) : Bool := states.getLsbD 0 || states.getLsbD 4

/-- Tests 2, 3 and 5 of R122 on a selection. -/
def selectionOk (sel : Selection) : Bool :=
  1 ≤ sel.startSlot && sel.startSlot ≤ Config.lastSlot && 1 ≤ sel.endSlot
    && sel.endSlot ≤ Config.lastSlot && sel.startSlot ≤ sel.endSlot
    && (sel.action == .count || !statesHoldFreeOrWorn sel.states)

/-- The Sweep Unit right after a SWEEP_START that passes (R123). -/
def startedSweep (sel : Selection) : SweepUnit :=
  { state := .running, sel := sel, cursor := sel.startSlot, matched := 0, acted := 0, skipped := 0
    endKind := .none }

/-- SWEEP_START (R122, R123): completes at acceptance. Tests 2 to 5 share the outcome BAD_ARGUMENT, so
their order cannot be seen. -/
def execSweepStart (s : State) : Host.Outcome State Fault Refusal :=
  .next <| s.submit fun args s =>
    if s.sweep.state ≠ .idle then s.finish .sweepStart .busy
    else
      match actionOfCode (bitsOf args.at1 8 2) with
      | none => s.finish .sweepStart .badArgument
      | some action =>
        let sel := selectionOf args action
        if selectionOk sel then
          { s with sweep := startedSweep sel }.complete Cmd.sweepStart.code .done
            ⟨wordOf (sel.endSlot - sel.startSlot + 1), 0#32, 0#32⟩
        else s.finish .sweepStart .badArgument

/-- SWEEP_STOP (R130): completes at acceptance. -/
def execSweepStop (s : State) : Host.Outcome State Fault Refusal :=
  .next <| s.submit fun _ s =>
    match s.sweep.state with
    | .running => { s with sweep := { s.sweep with state := .stopping } }.finish .sweepStop .done
    | .stopping => s.finish .sweepStop .done
    | .idle => s.finish .sweepStop .notRunning

/-- Whether three compared fields agree with a pattern in every bit a care mask marks (R124). -/
def fieldsMatch (f pattern care : SweepFields) : Bool :=
  (f.cls ^^^ pattern.cls) &&& care.cls == 0#8
    && (f.domain ^^^ pattern.domain) &&& care.domain == 0#4
    && (!care.shared || f.shared == pattern.shared)

/-- The match rule (R124). -/
def matchesSelection (sel : Selection) (r : Record) : Bool :=
  sel.states.getLsbD r.stateCode && fieldsMatch r.sweepFields sel.pattern sel.care

/-- What the RETIRE action does to a matched record (R127): retire it, or skip it. -/
def sweepRetires (r : Record) : Bool :=
  match r with
  | .live _ o => o.pins == 0#8
  | .forwarded _ _ _ => true
  | .moving _ _ => false
  | .free _ => false
  | .worn => false

/-- A record with another class, where it has one (R128). -/
def Record.withClass (r : Record) (c : BitVec 8) : Record :=
  match r with
  | .live g o => .live g { o with cls := c }
  | .moving g o => .moving g { o with cls := c }
  | .forwarded g _ t => .forwarded g c t
  | .free g => .free g
  | .worn => .worn

/-- The action on a matched record of slot `n`, with its counters (R126 to R128). -/
def State.sweepAct (s : State) (n : Nat) : State :=
  let counted := { s.sweep with matched := s.sweep.matched + 1 }
  let acted := { counted with acted := s.sweep.acted + 1 }
  match s.sweep.sel.action with
  | .count => { s with sweep := counted }
  | .retire =>
    if sweepRetires (s.record n) then { s.retire n with sweep := acted }
    else { s with sweep := { counted with skipped := s.sweep.skipped + 1 } }
  | .retag =>
    { s.setRecord n ((s.record n).withClass s.sweep.sel.newClass) with sweep := acted }

/-- The end of a sweep (R131). -/
def State.endSweep (s : State) (kind : EndKind) : State :=
  { s with sweep := { s.sweep with state := .idle, endKind := kind } }.raise .sweepEnd

/-- The end of a visit: the cursor raised, and the sweep ended when it has passed the end slot or is
STOPPING (R125 steps 3 and 4). -/
def State.advanceSweep (s : State) : State :=
  let t := { s with sweep := { s.sweep with cursor := s.sweep.cursor + 1 } }
  if t.sweep.sel.endSlot < t.sweep.cursor then t.endSweep .done
  else if t.sweep.state = .stopping then t.endSweep .stopped
  else t

/-- A visit (R125). -/
def visitBody (s : State) : State :=
  if matchesSelection s.sweep.sel (s.record s.sweep.cursor) then
    (s.sweepAct s.sweep.cursor).advanceSweep
  else s.advanceSweep

/-- A visit of the Sweep Unit, while a sweep is RUNNING or STOPPING (R39, R125). -/
def execSweepVisit (s : State) : Host.Outcome State Fault Refusal :=
  .next (s.access .sweepUnit visitBody)

end Sys2Proof.Machine
end

