-- ==== Sys2Proof/Machine/Walks.lean ====
section
/-! DEFINITION. Resolution: the walk, its checks, its cache actions, the shortcut, the window's LOOKUP and
the walk engines (spec 04, with the cache rules of spec 03 and the parking rules of spec 06). -/

namespace Sys2Proof.Machine

open Sys2Proof

/-- What one access of a walk comes to: a hop, an end with the walk's results, or a park on a slot. An
end or a park carries the shortcut it calls for, if any (R72). -/
inductive WalkStep where
  | hop (p : WalkProgress)
  | ended (result : WalkResult) (next : Option Shortcut)
  | parked (slot : Nat) (next : Option Shortcut)
  deriving DecidableEq, Repr

/-! ### Results (R71) -/

/-- The results of a walk that does not resolve: zero address and final handle (R71). -/
def refusedWalk (o : OutcomeCode) (hops : Nat) (fromCache : Bool) : WalkResult :=
  { outcome := o, address := 0#32, final := 0#32, hops := hops, fromCache := fromCache }

/-- The results of a walk that resolves: base plus offset, and the final handle (R47, R69). -/
def resolvedWalk (r : WalkRequest) (x : Extent) (final : Handle) (hops : Nat) (fromCache : Bool) :
    WalkResult :=
  { outcome := if hops = 0 then .resolved else .resolvedFwd
    address := x.base + wordOf r.offset
    final := final.word
    hops := hops
    fromCache := fromCache }

/-! ### Final-record checks (R66) -/

/-- The domain check (R7, R66). -/
def domainPasses (domain : BitVec 4) (x : Extent) : Bool :=
  domain == 0#4 || domain == x.domain || x.shared

/-- The rights check (R7, R66). -/
def rightsPass (access : AccessKind) (x : Extent) : Bool :=
  match access with
  | .read => x.rights.read
  | .write => x.rights.write
  | .undefined => false

/-- The refusal of the final-record checks, if any: domain, then rights, then bounds (R66). -/
def finalRefusal (r : WalkRequest) (x : Extent) : Option OutcomeCode :=
  if domainPasses r.domain x = false then some .domain
  else if rightsPass r.access x = false then some .rights
  else if x.length < r.offset + r.size then some .bounds
  else none

/-- Whether the move check applies to a request at a MOVING record: WRITE or LOOKUP_PIN (R67). -/
def moveCheckApplies (r : WalkRequest) : Bool := r.access == .write || r.kind == .lookupPin

/-! ### Cache actions of a walk -/

/-- The probe of a walk's first access (R46): the entry that hits, and the cache with an entry of too many
hops removed. -/
def State.probe (s : State) (h : Handle) : State × Option CacheEntry :=
  if s.config.cacheEn = false then (s, none)
  else
    match cacheFind s.cache h with
    | none => (s, none)
    | some e =>
      if s.config.hopLimit < e.hops then ({ s with cache := cacheDropOrigin s.cache h }, none)
      else (s, some e)

/-- The fill of a final access at a LIVE record (R50): made while CACHE_EN is set and the epoch equals
the walk's snapshot. -/
def State.fill (s : State) (snapshot : BitVec 16) (e : CacheEntry) : State :=
  if s.config.cacheEn = true ∧ s.epoch = snapshot then { s with cache := cacheFill s.cache e } else s

/-! ### A hit (R47, R48) -/

/-- The end of a walk whose probe hits (R47, R48). A LOOKUP_PIN pins the final record, which is LIVE by
the law of R44. DESIGN CHOICE (log 10): in a state that breaks that law, which no run reaches, it pins
nothing. -/
def walkHit (r : WalkRequest) (e : CacheEntry) (s : State) : State × WalkStep :=
  let s1 := { s with cache := cacheTouch s.cache e }
  match finalRefusal r e.ext with
  | some o => (s1, .ended (refusedWalk o e.hops true) none)
  | none =>
    let success := WalkStep.ended (resolvedWalk r e.ext e.final e.hops true) none
    if r.kind = .lookupPin then
      match s1.record e.final.slot with
      | .live g o =>
        if o.pins = Config.maxPins then (s1, .ended (refusedWalk .pinLimit e.hops true) none)
        else (s1.setRecord e.final.slot (.live g { o with pins := o.pins + 1#8 }), success)
      | .free _ => (s1, success)
      | .moving _ _ => (s1, success)
      | .forwarded _ _ _ => (s1, success)
      | .worn => (s1, success)
    else (s1, success)

/-! ### Reading a record (R63, R66 to R69, R72) -/

/-- The shortcut a walk requests at its final record (R72): at hop count 2 or more, with SHORTCUT_EN
set. -/
def shortcutFor (r : WalkRequest) (snapshot : BitVec 16) (reading : Option OriginReading) (h : Handle)
    (hops : Nat) (s : State) : Option Shortcut :=
  if 2 ≤ hops ∧ s.config.shortcutEn = true then
    reading.map fun rd =>
      { slot := (Handle.ofWord r.origin).slot, reading := rd, final := h, snapshot := snapshot }
  else none

/-- The final access at a LIVE record (R66, R68, R69, R50). -/
def walkFinalLive (r : WalkRequest) (snapshot : BitVec 16) (h : Handle) (hops : Nat) (o : Object)
    (next : Option Shortcut) (s : State) : State × WalkStep :=
  let entry : CacheEntry :=
    { origin := Handle.ofWord r.origin, final := h, hops := hops, ext := o.ext }
  match finalRefusal r o.ext with
  | some out => (s.fill snapshot entry, .ended (refusedWalk out hops false) next)
  | none =>
    let success := WalkStep.ended (resolvedWalk r o.ext h hops false) next
    if r.kind = .lookupPin then
      if o.pins = Config.maxPins then (s, .ended (refusedWalk .pinLimit hops false) next)
      else ((s.setRecord h.slot (.live h.gen { o with pins := o.pins + 1#8 })).fill snapshot entry,
        success)
    else (s.fill snapshot entry, success)

/-- The final access at a MOVING record (R66, R67, R69, R108): a READ LOOKUP resolves at the old base,
anything else is parked, where there is room and the walker may park, or answered MOVING. -/
def walkFinalMoving (mayPark : Bool) (r : WalkRequest) (h : Handle) (hops : Nat) (o : Object)
    (next : Option Shortcut) (s : State) : State × WalkStep :=
  match finalRefusal r o.ext with
  | some out => (s, .ended (refusedWalk out hops false) next)
  | none =>
    if moveCheckApplies r then
      if mayPark && s.parkRoom then (s, .parked h.slot next)
      else (s, .ended (refusedWalk .moving hops false) next)
    else (s, .ended (resolvedWalk r o.ext h hops false) next)

/-- STALE at hop 0, DANGLING later (R63 check 2). -/
def staleAt (hops : Nat) : OutcomeCode := if hops = 0 then .stale else .dangling

/-- One read of a walk after a miss: the record of the current handle `h` at hop count `hops`, judged by
the checks of R63 in order. -/
def walkRead (mayPark : Bool) (r : WalkRequest) (snapshot : BitVec 16) (limit : Nat)
    (reading : Option OriginReading) (h : Handle) (hops : Nat) (s : State) : State × WalkStep :=
  let refuse := fun o => (s, WalkStep.ended (refusedWalk o hops false) none)
  let next := shortcutFor r snapshot reading h hops s
  match s.record h.slot with
  | .worn => refuse .worn
  | .free _ => refuse (staleAt hops)
  | .forwarded g _ target =>
    if g ≠ h.gen then refuse (staleAt hops)
    else if hops < limit then
      (s, .hop { snapshot := snapshot, limit := limit, reading := reading.getD (OriginReading.mk g target)
                 current := target, hops := hops + 1 })
    else refuse .chainLimit
  | .live g o =>
    if g ≠ h.gen then refuse (staleAt hops) else walkFinalLive r snapshot h hops o next s
  | .moving g o =>
    if g ≠ h.gen then refuse (staleAt hops) else walkFinalMoving mayPark r h hops o next s

/-- The first access of a walk (R62): snapshot and HOP_LIMIT, null handle, probe, hit or the origin
record. -/
def walkFirst (mayPark : Bool) (r : WalkRequest) (s : State) : State × WalkStep :=
  match handleForm r.origin with
  | .malformed => (s, .ended (refusedWalk .malformed 0 false) none)
  | .null => (s, .ended (refusedWalk .nullHandle 0 false) none)
  | .named h =>
    match s.probe h with
    | (s1, some e) => walkHit r e s1
    | (s1, none) => walkRead mayPark r s.epoch s.config.hopLimit none h 0 s1

/-- A later access of a walk (R63). -/
def walkNext (mayPark : Bool) (r : WalkRequest) (p : WalkProgress) (s : State) : State × WalkStep :=
  walkRead mayPark r p.snapshot p.limit (some p.reading) p.current p.hops s

/-! ### Handing on what an access came to -/

/-- A walk engine that has ended or parked its walk: to SHORTCUT when one is called for, otherwise to
IDLE, where the drain condition is tested (R79, R149). -/
def State.settleEngine (s : State) (e : EngineId) (next : Option Shortcut) : State :=
  match next with
  | some c => s.setEngine e (.shortcut c)
  | none => (s.setEngine e .idle).testDrain

/-- A walk engine after an access of its walk (R79, R81, R110). -/
def engineHandOn (e : EngineId) (r : LinkRequest) (x : State × WalkStep) : State :=
  match x.2 with
  | .hop p => x.1.setEngine e (.walking r p)
  | .ended result next => (x.1.place r result).settleEngine e next
  | .parked slot next => (x.1.park r slot).settleEngine e next

/-- The completion of LOOKUP (R77): address, final handle, hop count and from-cache flag. -/
def State.completeLookup (s : State) (c : Command) (result : WalkResult) : State :=
  s.complete c.cmd.code result.outcome ⟨result.address, result.final, lookupRes2 result⟩

/-- The Command Unit after an access of LOOKUP's walk (R77). A window LOOKUP never parks (R78). -/
def commandHandOn (c : Command) (r : WalkRequest) (x : State × WalkStep) : State :=
  match x.2 with
  | .hop p => { x.1 with cmd := some { c with phase := .walking r p } }
  | .ended result none => x.1.completeLookup c result
  | .ended result (some sc) => { x.1 with cmd := some { c with phase := .walkShortcut sc result } }
  | .parked _ _ => x.1

/-! ### The shortcut access (R73) -/

/-- The shortcut access's effect on the Record Store (R73): the origin's forward target becomes the final
handle when all four guards hold. -/
def applyShortcut (c : Shortcut) (s : State) : State :=
  match s.record c.slot with
  | .forwarded g k target =>
    if s.epoch = c.snapshot ∧ g = c.reading.gen ∧ target = c.reading.target then
      s.setRecord c.slot (.forwarded g k c.final)
    else s
  | .free _ => s
  | .live _ _ => s
  | .moving _ _ => s
  | .worn => s

/-! ### Meanings -/

/-- Submission of the window's LOOKUP (R76). -/
def execLookup (s : State) : Host.Outcome State Fault Refusal :=
  .next <| s.submit fun args s =>
    let r := lookupRequest args
    if walkMalformed r then s.finish .lookup .malformed
    else s.begin .lookup args (.walkOpening r)

/-- The first access of a walk, by the Command Unit or a walk engine (R62). -/
def execWalkFirstAccess (w : Walker) (s : State) : Host.Outcome State Fault Refusal :=
  .next <| match w with
    | .commandUnit =>
      match s.cmd with
      | some c =>
        match c.phase with
        | .walkOpening r => s.access .commandUnit fun s => commandHandOn c r (walkFirst false r s)
        | _ => s
      | none => s
    | .engine e =>
      match s.engine e with
      | .opening r => s.access (engineClient e) fun s => engineHandOn e r (walkFirst true r.req s)
      | _ => s

/-- A later access of a walk, by the Command Unit or a walk engine (R63). -/
def execWalkHopAccess (w : Walker) (s : State) : Host.Outcome State Fault Refusal :=
  .next <| match w with
    | .commandUnit =>
      match s.cmd with
      | some c =>
        match c.phase with
        | .walking r p => s.access .commandUnit fun s => commandHandOn c r (walkNext false r p s)
        | _ => s
      | none => s
    | .engine e =>
      match s.engine e with
      | .walking r p => s.access (engineClient e) fun s => engineHandOn e r (walkNext true r.req p s)
      | _ => s

/-- The shortcut access (R73); the window's LOOKUP then completes (R77), a walk engine becomes IDLE
(R79). -/
def execShortcutAccess (w : Walker) (s : State) : Host.Outcome State Fault Refusal :=
  .next <| match w with
    | .commandUnit =>
      match s.cmd with
      | some c =>
        match c.phase with
        | .walkShortcut sc result =>
          s.access .commandUnit fun s => (applyShortcut sc s).completeLookup c result
        | _ => s
      | none => s
    | .engine e =>
      match s.engine e with
      | .shortcut sc =>
        s.access (engineClient e) fun s => (applyShortcut sc s).settleEngine e none
      | _ => s

/-- The walk engine that takes work next: an IDLE one, Walk Engine A before B (R80). DESIGN CHOICE (log 18):
each take is judged by itself, so an engine A that is IDLE again after a MALFORMED request takes the next
one too. -/
def State.takingEngine (s : State) : Option EngineId :=
  if s.engineA = .idle then some .a else if s.engineB = .idle then some .b else none

/-- The engine that has taken a request: MALFORMED is answered at once and leaves it IDLE, an UNPIN waits
for its one access, a LOOKUP or LOOKUP_PIN for its first (R80, R141). -/
def takeRequest (e : EngineId) (r : LinkRequest) (s : State) : State :=
  if linkMalformed r.req then s.place r (refusedWalk .malformed 0 false)
  else if r.req.kind = .unpin then s.setEngine e (.unpinning r)
  else s.setEngine e (.opening r)

/-- A walk engine takes the head of the Release Queue, or else of the Lookup Queue (R80). No request is
taken during either reset, when both queues are empty (R84). -/
def execWalkTake (s : State) : Host.Outcome State Fault Refusal :=
  .next <| s.whenRunning fun s =>
    match s.takingEngine with
    | none => s
    | some e =>
      match s.releaseQueue with
      | r :: rest => takeRequest e r { s with releaseQueue := rest }
      | [] =>
        match s.lookupQueue with
        | r :: rest => takeRequest e r { s with lookupQueue := rest }
        | [] => s

/-! ### The link UNPIN (R143) -/

/-- A link UNPIN against the record of its handle's slot, in the order of R143: the refusal, or the object
with its pin count lowered. -/
def linkUnpin (h : Handle) (domain : BitVec 4) (r : Record) : Except OutcomeCode Object :=
  match r with
  | .free _ => .error .stale
  | .worn => if h.gen = Config.lastGen then .error .worn else .error .stale
  | .moving g _ => if g = h.gen then .error .notLive else .error .stale
  | .forwarded g _ _ => if g = h.gen then .error .notLive else .error .stale
  | .live g o =>
    if g ≠ h.gen then .error .stale
    else if domain ≠ o.ext.domain ∧ o.ext.shared = false then .error .domain
    else if o.pins = 0#8 then .error .unpinUnderflow
    else .ok { o with pins := o.pins - 1#8 }

/-- The access of a link UNPIN up to its response (R143): hops 0, not from cache, zero address and final
handle. -/
def linkUnpinBody (r : LinkRequest) (s : State) : State :=
  let h := Handle.ofWord r.req.origin
  match linkUnpin h r.req.domain (s.record h.slot) with
  | .error o => s.place r (refusedWalk o 0 false)
  | .ok o => (s.setRecord h.slot (.live h.gen o)).place r (refusedWalk .done 0 false)

/-- The single access of a link UNPIN (R143), after which the engine is IDLE (R79). -/
def execLinkUnpinAccess (e : EngineId) (s : State) : Host.Outcome State Fault Refusal :=
  .next <| match s.engine e with
    | .unpinning r =>
      s.access (engineClient e) fun s => (linkUnpinBody r s).settleEngine e none
    | _ => s

end Sys2Proof.Machine
end

