-- ==== Sys2Proof/Machine/Window.lean ====
section
/-! DEFINITION. The remaining window writes: EVENTS, EVENT_ENABLE, the other words, and a COMMAND write of
any code (spec 09). -/

namespace Sys2Proof.Machine

open Sys2Proof

/-- A write to EVENTS (R161). -/
def execEventsWrite (value : Word) (s : State) : Host.Outcome State Fault Refusal :=
  .next <| s.whenRunning fun s => { s with events := clearedBy s.events value }

/-- A write to EVENT_ENABLE (R162): bits 31:6 are ignored. -/
def execEventEnableWrite (value : Word) (s : State) : Host.Outcome State Fault Refusal :=
  .next <| s.whenRunning fun s => { s with eventEnable := value.extractLsb' 0 6 }

/-- The submission of a command by its name (R154). -/
def execCommand (k : Cmd) (s : State) : Host.Outcome State Fault Refusal :=
  match k with
  | .create => execCreate s
  | .retire => execRetire s
  | .pin => execPin s
  | .unpin => execUnpin s
  | .clearDirectory => execClearDirectory s
  | .alter => execAlter s
  | .resize => execResize s
  | .readRecord => execReadRecord s
  | .lookup => execLookup s
  | .forward => execForward s
  | .moveBegin => execMoveBegin s
  | .moveCommit => execMoveCommit s
  | .moveAbort => execMoveAbort s
  | .sweepStart => execSweepStart s
  | .sweepStop => execSweepStop s
  | .linkOpen => execLinkOpen s
  | .linkClose => execLinkClose s
  | .setPortDomain => execSetPortDomain s
  | .setConfig => execSetConfig s
  | .readConfig => execReadConfig s

/-- A write of COMMAND whose code names no command (R158). The operand is the word written, so a word
whose code does name a command, which no well-formed event carries, submits that command. -/
def execUnknownCommand (word : Word) (s : State) : Host.Outcome State Fault Refusal :=
  match commandOfCode (commandCode word) with
  | some k => execCommand k s
  | none =>
    .next <| s.submit fun _ s => s.complete (commandCode word) .unknownCommand noResults

/-- The row of the table that submits a command (Table 9-4). -/
def Cmd.row : Cmd → Instr
  | .create => .create
  | .retire => .retire
  | .pin => .pin
  | .unpin => .unpin
  | .clearDirectory => .clearDirectory
  | .alter => .alter
  | .resize => .resize
  | .readRecord => .readRecord
  | .lookup => .lookup
  | .forward => .forward
  | .moveBegin => .moveBegin
  | .moveCommit => .moveCommit
  | .moveAbort => .moveAbort
  | .sweepStart => .sweepStart
  | .sweepStop => .sweepStop
  | .linkOpen => .linkOpen
  | .linkClose => .linkClose
  | .setPortDomain => .setPortDomain
  | .setConfig => .setConfig
  | .readConfig => .readConfig

/-- The row of a write of COMMAND, by the code in bits 7:0 (R154, R158). -/
def commandRow (value : Word) : Instr :=
  match commandOfCode (commandCode value) with
  | some k => k.row
  | none => .unknownCommand value

/-- The event that a write of the Control Window is, by the word it selects and the value (R152, Table
9-1). -/
def windowWrite (select : BitVec 4) (value : Word) : Instr :=
  match wordAt select with
  | .command => commandRow value
  | .events => .eventsWrite value
  | .eventEnable => .eventEnableWrite value
  | .sweepSkipped => if bitOf value 0 then .windowReset value else .registerWrite .sweepSkipped value
  | w => .registerWrite w value

/-- A write of an argument word (R157). -/
def State.writeArg (s : State) (i : Fin 4) (value : Word) : State :=
  s.whenRunning fun s => { s with args := s.args.set i value }

/-- A write of a window word (R152): the argument words take the value, and read-only words ignore it.
The words that have a row of their own (COMMAND, EVENTS, EVENT_ENABLE, WINDOW_RESET), which no
well-formed event of this row names, behave as in that row. -/
def execRegisterWrite (word : WindowWord) (value : Word) (s : State) :
    Host.Outcome State Fault Refusal :=
  match word with
  | .command => execUnknownCommand value s
  | .arg0 => .next (s.writeArg 0 value)
  | .arg1 => .next (s.writeArg 1 value)
  | .arg2 => .next (s.writeArg 2 value)
  | .arg3 => .next (s.writeArg 3 value)
  | .events => execEventsWrite value s
  | .eventEnable => execEventEnableWrite value s
  | .sweepSkipped => execWindowReset value s
  | .res0 => .next s
  | .res1 => .next s
  | .res2 => .next s
  | .status => .next s
  | .counts => .next s
  | .sweepCursor => .next s
  | .sweepCounts => .next s
  | .epoch => .next s

end Sys2Proof.Machine
end

