-- ==== Sys2Proof/Machine/Dispatch.lean ====
section
/-! DEFINITION. The dispatch: one arm for each constructor of Instr. -/

namespace Sys2Proof.Machine
open Sys2Proof

def exec (i : Instr) (s : State) : Host.Outcome State Fault Refusal :=
  match i with
  | .create => Sys2Proof.Machine.execCreate s
  | .retire => Sys2Proof.Machine.execRetire s
  | .pin => Sys2Proof.Machine.execPin s
  | .unpin => Sys2Proof.Machine.execUnpin s
  | .clearDirectory => Sys2Proof.Machine.execClearDirectory s
  | .alter => Sys2Proof.Machine.execAlter s
  | .resize => Sys2Proof.Machine.execResize s
  | .readRecord => Sys2Proof.Machine.execReadRecord s
  | .lookup => Sys2Proof.Machine.execLookup s
  | .forward => Sys2Proof.Machine.execForward s
  | .moveBegin => Sys2Proof.Machine.execMoveBegin s
  | .moveCommit => Sys2Proof.Machine.execMoveCommit s
  | .moveAbort => Sys2Proof.Machine.execMoveAbort s
  | .sweepStart => Sys2Proof.Machine.execSweepStart s
  | .sweepStop => Sys2Proof.Machine.execSweepStop s
  | .linkOpen => Sys2Proof.Machine.execLinkOpen s
  | .linkClose => Sys2Proof.Machine.execLinkClose s
  | .setPortDomain => Sys2Proof.Machine.execSetPortDomain s
  | .setConfig => Sys2Proof.Machine.execSetConfig s
  | .readConfig => Sys2Proof.Machine.execReadConfig s
  | .unknownCommand word => Sys2Proof.Machine.execUnknownCommand word s
  | .createAccess => Sys2Proof.Machine.execCreateAccess s
  | .retireAccess => Sys2Proof.Machine.execRetireAccess s
  | .pinAccess => Sys2Proof.Machine.execPinAccess s
  | .unpinAccess => Sys2Proof.Machine.execUnpinAccess s
  | .clearAccess => Sys2Proof.Machine.execClearAccess s
  | .alterAccess => Sys2Proof.Machine.execAlterAccess s
  | .resizeAccess => Sys2Proof.Machine.execResizeAccess s
  | .readRecordAccess => Sys2Proof.Machine.execReadRecordAccess s
  | .walkFirstAccess w => Sys2Proof.Machine.execWalkFirstAccess w s
  | .walkHopAccess w => Sys2Proof.Machine.execWalkHopAccess w s
  | .shortcutAccess w => Sys2Proof.Machine.execShortcutAccess w s
  | .fromAccess => Sys2Proof.Machine.execFromAccess s
  | .checkWalkAccess => Sys2Proof.Machine.execCheckWalkAccess s
  | .forwardFinalAccess => Sys2Proof.Machine.execForwardFinalAccess s
  | .moveBeginAccess => Sys2Proof.Machine.execMoveBeginAccess s
  | .moveCommitAccess => Sys2Proof.Machine.execMoveCommitAccess s
  | .moveAbortAccess => Sys2Proof.Machine.execMoveAbortAccess s
  | .cacheEnAccess => Sys2Proof.Machine.execCacheEnAccess s
  | .linkUnpinAccess e => Sys2Proof.Machine.execLinkUnpinAccess e s
  | .sweepVisit => Sys2Proof.Machine.execSweepVisit s
  | .expiryAccess => Sys2Proof.Machine.execExpiryAccess s
  | .linkRequest port word0 word1 word2 => Sys2Proof.Machine.execLinkRequest port word0 word1 word2 s
  | .responseAccept => Sys2Proof.Machine.execResponseAccept s
  | .walkTake => Sys2Proof.Machine.execWalkTake s
  | .tick => Sys2Proof.Machine.execTick s
  | .expiry => Sys2Proof.Machine.execExpiry s
  | .resetAssert => Sys2Proof.Machine.execResetAssert s
  | .resetRelease => Sys2Proof.Machine.execResetRelease s
  | .windowReset value => Sys2Proof.Machine.execWindowReset value s
  | .windowResetComplete => Sys2Proof.Machine.execWindowResetComplete s
  | .eventsWrite value => Sys2Proof.Machine.execEventsWrite value s
  | .eventEnableWrite value => Sys2Proof.Machine.execEventEnableWrite value s
  | .registerWrite word value => Sys2Proof.Machine.execRegisterWrite word value s

end Sys2Proof.Machine
end

