-- ==== Sys2Proof/Machine/Step.lean ====
section
/-! DEFINITION. The step: the command at the front of the queue, or one core-clock cycle when the queue is
empty. -/

namespace Sys2Proof.Machine

open Sys2Proof

/-- One step. The front of the queue happens, on the state with the queue's rest (log 1). DESIGN CHOICE
(log 4): on an empty queue the Move Timer counts one core-clock cycle (R102). -/
def step (s : State) : Host.Outcome State Fault Refusal :=
  match s.pending with
  | [] => .next s.clockCycle
  | c :: rest => exec c { s with pending := rest }

/-- The state with the command a word spells put at the front of its queue; unchanged where the word
spells none. No row of the table gives bits, so no word spells one. -/
def State.withFetchWord (s : State) (nbits w : Nat) : State :=
  match decodeTableWord nbits w with
  | some c => { s with pending := c :: s.pending }
  | none => s

end Sys2Proof.Machine
end

