-- ==== Sys2Proof/WellFormed.lean ====
section
/-! DEFINITION. Which events are well formed: each names what its own row of the table is about. -/

namespace Sys2Proof

/-- The words whose writes have a row of their own: COMMAND, EVENTS, EVENT_ENABLE, and WINDOW_RESET when
its bit 0 is set (R152). -/
def hasOwnRow (word : WindowWord) (value : Word) : Bool :=
  match word with
  | .command => true
  | .events => true
  | .eventEnable => true
  | .sweepSkipped => Machine.bitOf value 0
  | .arg0 | .arg1 | .arg2 | .arg3 | .res0 | .res1 | .res2 | .status | .counts | .sweepCursor
  | .sweepCounts | .epoch => false

/-- An event is well formed: UNKNOWN_COMMAND carries a word whose code names no command (R158),
WINDOW_RESET a word with bit 0 set (R166), REGISTER_WRITE any other window write (R152). -/
def Instr.wellFormed (i : Instr) : Bool :=
  match i with
  | .unknownCommand word => (Machine.commandOfCode (Machine.commandCode word)).isNone
  | .windowReset value => Machine.bitOf value 0
  | .registerWrite word value => !hasOwnRow word value
  | .create | .retire | .pin | .unpin | .clearDirectory | .alter | .resize | .readRecord | .lookup
  | .forward | .moveBegin | .moveCommit | .moveAbort | .sweepStart | .sweepStop | .linkOpen
  | .linkClose | .setPortDomain | .setConfig | .readConfig
  | .createAccess | .retireAccess | .pinAccess | .unpinAccess | .clearAccess | .alterAccess
  | .resizeAccess | .readRecordAccess | .walkFirstAccess _ | .walkHopAccess _ | .shortcutAccess _
  | .fromAccess | .checkWalkAccess | .forwardFinalAccess | .moveBeginAccess | .moveCommitAccess
  | .moveAbortAccess | .cacheEnAccess | .linkUnpinAccess _ | .sweepVisit | .expiryAccess
  | .linkRequest _ _ _ _ | .responseAccept | .walkTake | .tick | .expiry | .resetAssert
  | .resetRelease | .windowResetComplete | .eventsWrite _ | .eventEnableWrite _ => true

end Sys2Proof
end

