-- ==== Sys2Proof/Safety.lean ====
section
/-! DEFINITION. The terms in which the claims speak: when a command is accepted or served, and the laws of
the OD-24 as predicates of a state. -/

namespace Sys2Proof.Safety

open Sys2Proof Sys2Proof.Machine

/-! ### Events -/

/-- The rows of the table that write COMMAND with a code of Table 9-4, with the command each submits. -/
def submissions : List (Instr × Cmd) :=
  [(.create, .create), (.retire, .retire), (.pin, .pin), (.unpin, .unpin),
    (.clearDirectory, .clearDirectory), (.alter, .alter), (.resize, .resize),
    (.readRecord, .readRecord), (.lookup, .lookup), (.forward, .forward), (.moveBegin, .moveBegin),
    (.moveCommit, .moveCommit), (.moveAbort, .moveAbort), (.sweepStart, .sweepStart),
    (.sweepStop, .sweepStop), (.linkOpen, .linkOpen), (.linkClose, .linkClose),
    (.setPortDomain, .setPortDomain), (.setConfig, .setConfig), (.readConfig, .readConfig)]

/-- The submissions whose only argument is a handle in ARG0 (R3). -/
def handleSubmissions : List (Instr × Cmd) :=
  [(.retire, .retire), (.pin, .pin), (.unpin, .unpin), (.moveCommit, .moveCommit),
    (.moveAbort, .moveAbort)]

/-- The submissions that name a record by the handle in ARG0 (R3). -/
def namingSubmissions : List (Instr × Cmd) :=
  handleSubmissions ++
    [(.alter, .alter), (.resize, .resize), (.forward, .forward), (.moveBegin, .moveBegin)]

/-- The events that clear or reset the whole directory (R9): the clear access and the resets. -/
def clearsDirectory : Instr → Bool
  | .clearAccess => true
  | .resetAssert => true
  | .resetRelease => true
  | .windowReset _ => true
  | .registerWrite .sweepSkipped _ => true
  | _ => false

/-- The events that belong to the resets alone and act while one is in progress (R165, R166). -/
def actsDuringReset : Instr → Bool
  | .resetAssert => true
  | .resetRelease => true
  | .windowResetComplete => true
  | _ => false

/-- The client a walk's accesses belong to (R39). -/
def walkerClient : Walker → Client
  | .commandUnit => .commandUnit
  | .engine .a => .engineA
  | .engine .b => .engineB

/-- The client a directory access belongs to (R39, Table 3-1); none for every other event. -/
def accessClient : Instr → Option Client
  | .createAccess | .retireAccess | .pinAccess | .unpinAccess | .clearAccess | .alterAccess
  | .resizeAccess | .readRecordAccess | .fromAccess | .checkWalkAccess | .forwardFinalAccess
  | .moveBeginAccess | .moveCommitAccess | .moveAbortAccess | .cacheEnAccess => some .commandUnit
  | .walkFirstAccess w | .walkHopAccess w | .shortcutAccess w => some (walkerClient w)
  | .linkUnpinAccess e => some (walkerClient (.engine e))
  | .sweepVisit => some .sweepUnit
  | .expiryAccess => some .moveTimer
  | _ => none

/-! ### Tables of codes and offsets -/

/-- Table 9-1: the byte offsets of the window words. -/
def windowLayout : List (Nat × WindowWord) :=
  [(0x00, .command), (0x04, .arg0), (0x08, .arg1), (0x0C, .arg2), (0x10, .arg3), (0x14, .res0),
    (0x18, .res1), (0x1C, .res2), (0x20, .status), (0x24, .events), (0x28, .eventEnable),
    (0x2C, .counts), (0x30, .sweepCursor), (0x34, .sweepCounts), (0x38, .sweepSkipped), (0x3C, .epoch)]

/-- A5:2 of the access to a byte offset of the window (Table 9-9). -/
def selectOf (offset : Nat) : BitVec 4 := BitVec.ofNat 4 (offset / 4)

/-- Table 9-4: the codes that name a command, with the rows they submit. -/
def commandTable : List (BitVec 8 × Instr) :=
  [(0x01#8, .create), (0x02#8, .retire), (0x03#8, .pin), (0x04#8, .unpin), (0x05#8, .clearDirectory),
    (0x08#8, .alter), (0x09#8, .resize), (0x0A#8, .readRecord), (0x10#8, .lookup), (0x11#8, .forward),
    (0x18#8, .moveBegin), (0x19#8, .moveCommit), (0x1A#8, .moveAbort), (0x20#8, .sweepStart),
    (0x21#8, .sweepStop), (0x28#8, .linkOpen), (0x29#8, .linkClose), (0x2A#8, .setPortDomain),
    (0x30#8, .setConfig), (0x31#8, .readConfig)]

/-- Table 4-2: the outcome codes. -/
def outcomeTable : List (OutcomeCode × BitVec 8) :=
  [(.done, 0x00#8), (.resolved, 0x01#8), (.resolvedFwd, 0x02#8), (.nullHandle, 0x10#8), (.stale, 0x11#8),
    (.dangling, 0x12#8), (.worn, 0x13#8), (.chainLimit, 0x14#8), (.domain, 0x15#8), (.rights, 0x16#8),
    (.bounds, 0x17#8), (.moving, 0x18#8), (.malformed, 0x19#8), (.pinLimit, 0x1A#8),
    (.unpinUnderflow, 0x1B#8), (.closed, 0x20#8), (.noCredit, 0x21#8), (.dupTag, 0x22#8),
    (.noSlot, 0x30#8), (.badArgument, 0x31#8), (.notLive, 0x32#8), (.pinned, 0x33#8),
    (.moveTableFull, 0x34#8), (.notMoving, 0x35#8), (.lapsed, 0x36#8), (.cycle, 0x37#8), (.deep, 0x38#8),
    (.contended, 0x39#8), (.busy, 0x3A#8), (.unknownCommand, 0x3B#8), (.notRunning, 0x3C#8)]

/-- Table 8-1, acknowledge: 00H accepted, otherwise the refusal's code of Table 4-2. -/
def ackTable : List (AckResult × BitVec 8) :=
  [(.accepted, 0x00#8), (.closed, 0x20#8), (.noCredit, 0x21#8), (.dupTag, 0x22#8)]

/-- Table 8-1, response: the fields of its three words. -/
def ResponseWords (r : Response) : Prop :=
  (r.word0.extractLsb' 0 2).toNat = r.port.val ∧ r.word0.extractLsb' 2 2 = 0#2
    ∧ r.word0.extractLsb' 4 4 = r.tag ∧ (r.result.outcome, r.word0.extractLsb' 8 8) ∈ outcomeTable
    ∧ (r.word0.extractLsb' 16 4).toNat = r.result.hops ∧ r.word0.getLsbD 20 = r.result.fromCache
    ∧ r.word0.extractLsb' 21 11 = 0#11 ∧ r.word1 = r.result.address ∧ r.word2 = r.result.final

/-! ### Handle words (R1, R2) -/

/-- R2: a malformed handle word. -/
abbrev Malformed (w : Word) : Prop :=
  w.extractLsb' 20 12 ≠ 0#12 ∨ (w.extractLsb' 8 12 ≠ 0#12 ∧ w.extractLsb' 0 8 = 0#8)

/-- R2: a null handle word. -/
abbrev Null (w : Word) : Prop := w.extractLsb' 20 12 = 0#12 ∧ w.extractLsb' 8 12 = 0#12

/-- R1, R2: a word that is neither malformed nor null, and the handle it spells. -/
abbrev Spells (w : Word) (h : Handle) : Prop :=
  ¬ Malformed w ∧ ¬ Null w ∧ h = ⟨(w.extractLsb' 8 12).toNat, w.extractLsb' 0 8⟩

/-- R1: the word of a handle. -/
def handleWord (h : Handle) : Word := BitVec.ofNat 32 (h.slot * 256 + h.gen.toNat)

/-- R4 check 2: the record is FREE, or it is not WORN and its generation differs. -/
abbrev Stale (h : Handle) (r : Record) : Prop :=
  r ≠ .worn ∧ (r = .free r.gen ∨ r.gen ≠ h.gen)

/-! ### Commands and their accesses -/

/-- A write of COMMAND would submit its command (R154). -/
abbrev Accepting (s : State) : Prop := s.phase = .running ∧ s.cmd = none

/-- The state after a completion (R155): results, outcome, command code, BUSY clear, CMD_DONE set. -/
def completed (s : State) (code : BitVec 8) (o : OutcomeCode) (r0 r1 r2 : Word) : State :=
  { s with
    cmd := none, results := ⟨r0, r1, r2⟩, lastOutcome := o, lastCommand := code
    events := s.events ||| 0b000001#6 }

/-- The state in which an accepted command waits for its first access (R154). -/
def accepted (s : State) (k : Cmd) (phase : CmdPhase) : State :=
  { s with cmd := some ⟨k, s.args, phase⟩ }

/-- R3 for a submission whose handle stands in ARG0: its refusals by form. -/
def FormTested (i : Instr) (code : BitVec 8) (s : State) : Prop :=
  (Malformed s.args.at0 → exec i s = .next (completed s code .badArgument 0#32 0#32 0#32))
    ∧ (Null s.args.at0 → exec i s = .next (completed s code .nullHandle 0#32 0#32 0#32))

/-- An access of the command in progress, in a given phase, is the one granted now (R39, R40). -/
abbrev ServesPhase (s : State) (k : Cmd) (args : Quad Word) (phase : CmdPhase) : Prop :=
  s.cmd = some ⟨k, args, phase⟩ ∧ s.granted = some .commandUnit

/-- The single access of a command is the one granted now. -/
abbrev ServesSingle (s : State) (k : Cmd) (args : Quad Word) : Prop := ServesPhase s k args .single

/-- The single access of a command that names a record by the handle in ARG0 is the one granted now. -/
abbrev ServesHandle (s : State) (k : Cmd) (args : Quad Word) (h : Handle) : Prop :=
  ServesSingle s k args ∧ h = ⟨(args.at0.extractLsb' 8 12).toNat, args.at0.extractLsb' 0 8⟩

/-- The state after a completion in an access of the Command Unit (R40, R155). -/
def served (s : State) (code : BitVec 8) (o : OutcomeCode) (r0 r1 r2 : Word) : State :=
  completed { s with lastGranted := .commandUnit } code o r0 r1 r2

/-- The records of two states agree but for one slot. -/
def RecordsAgreeBut (s t : State) (n : Nat) : Prop := ∀ m, m ≠ n → t.record m = s.record m

/-! ### What the rules of chapters 1 and 2 give -/

/-- R24: the tests of CREATE's arguments. -/
abbrev CreateArgumentsPass (args : Quad Word) : Prop :=
  args.at0.toNat % 16 = 0 ∧ args.at1.toNat % 16 = 0 ∧ 16 ≤ args.at1.toNat
    ∧ args.at1.toNat ≤ 16777216 ∧ args.at0.toNat + args.at1.toNat ≤ 4294967296
    ∧ (args.at2.extractLsb' 8 5).toNat ≤ 15 ∧ (args.at2.extractLsb' 16 9).toNat ≤ 255

/-- R25: the object that CREATE's arguments describe. -/
def objectOf (args : Quad Word) : Object :=
  { ext :=
      { base := args.at0, length := args.at1.toNat
        rights := ⟨args.at2.getLsbD 0, args.at2.getLsbD 1⟩
        shared := args.at2.getLsbD 2, domain := args.at2.extractLsb' 8 4 }
    cls := args.at2.extractLsb' 16 8, pins := 0#8 }

/-- R14: the tests of ALTER's packed word. -/
abbrev AlterWordPasses (w : Word) : Prop :=
  w.extractLsb' 28 4 ≠ 0#4
    ∧ (w.getLsbD 30 = true → (w.extractLsb' 8 5).toNat ≤ 15)
    ∧ (w.getLsbD 31 = true → (w.extractLsb' 16 9).toNat ≤ 255)

/-- R15: an object with the fields replaced that ALTER's packed word selects. -/
def altered (w : Word) (o : Object) : Object :=
  { ext :=
      { o.ext with
        rights := if w.getLsbD 28 then ⟨w.getLsbD 0, w.getLsbD 1⟩ else o.ext.rights
        shared := if w.getLsbD 29 then w.getLsbD 2 else o.ext.shared
        domain := if w.getLsbD 30 then w.extractLsb' 8 4 else o.ext.domain }
    cls := if w.getLsbD 31 then w.extractLsb' 16 8 else o.cls, pins := o.pins }

/-- R51: the cache without the entries whose final slot is `n`. -/
def withoutFinal (cache : List CacheEntry) (n : Nat) : List CacheEntry :=
  cache.filter (fun e => e.final.slot != n)

/-- R28: what the retirement of slot `n` changes beside the record itself. A forwarder's retirement
empties the cache and raises the epoch, any other removes entries by final slot; then the slot joins the
queue, or the Worn Count rises. -/
def afterRetire (s : State) (n : Nat) : State :=
  { s with
    cache := if (s.record n).stateCode = 3 then [] else withoutFinal s.cache n
    epoch := if (s.record n).stateCode = 3 then s.epoch + 1#16 else s.epoch
    freeQueue := if (s.record n).gen = 255#8 then s.freeQueue else s.freeQueue ++ [n]
    wornCount := if (s.record n).gen = 255#8 then s.wornCount + 1 else s.wornCount }

/-- R28: the record a retirement leaves. -/
def spent (g : BitVec 8) : Record := if g = 255#8 then .worn else .free (g + 1#8)

/-- R35: the sum of the values of CLEAR_DIRECTORY's failed preconditions. -/
def blockers (s : State) : Nat :=
  (if s.gate = .closed then 0 else 1) + (if s.sweep.state = .idle then 0 else 2)
    + (if s.moves = ⟨.idle, .idle, .idle, .idle⟩ then 0 else 4)

/-! ### Arbitration (R40) -/

/-- The place of a client in the fixed rotation. -/
def place : Client → Nat
  | .commandUnit => 0
  | .engineA => 1
  | .engineB => 2
  | .sweepUnit => 3
  | .moveTimer => 4

/-- How many places after the last client granted a client stands in the rotation: 0 for the next one,
4 for the last one granted itself. -/
def turns (last c : Client) : Nat := (place c + 4 - place last) % 5

/-! ### Walks (chapter 4) -/

/-- The first access of the walk of a request is the one granted now (R62). -/
def Opens (s : State) (w : Walker) (r : WalkRequest) : Prop :=
  s.granted = some (walkerClient w)
    ∧ match w with
      | .commandUnit => ∃ args, s.cmd = some ⟨.lookup, args, .walkOpening r⟩
      | .engine e => ∃ q, s.engine e = .opening q ∧ q.req = r

/-- A later access of a walk in progress is the one granted now (R63). -/
def Hops (s : State) (w : Walker) (r : WalkRequest) (p : WalkProgress) : Prop :=
  s.granted = some (walkerClient w)
    ∧ match w with
      | .commandUnit => ∃ args, s.cmd = some ⟨.lookup, args, .walking r p⟩
      | .engine e => ∃ q, s.engine e = .walking q p ∧ q.req = r

/-- What a walk reads a record with: its walker and request, the snapshot and HOP_LIMIT it took, the
current handle, the hop count and the origin reading (R62, R63). -/
structure Look where
  walker : Walker
  req : WalkRequest
  snapshot : BitVec 16
  limit : Nat
  current : Handle
  hops : Nat
  reading : Option OriginReading

/-- `Reads i s k s1`: the access `i`, granted in `s`, reads the record of `k.current`, with the cache as
it stands in `s1`. The first access of a walk does so after a miss or without a probe, at hop count 0
(R46, R49, R62); every later access does (R63). -/
inductive Reads : Instr → State → Look → State → Prop
  | unprobed (w : Walker) (r : WalkRequest) (h : Handle) (s : State) :
      Opens s w r → Spells r.origin h →
      (s.config.cacheEn = false ∨ ∀ e ∈ s.cache, e.origin ≠ h) →
      Reads (.walkFirstAccess w) s ⟨w, r, s.epoch, s.config.hopLimit, h, 0, none⟩ s
  | overLimit (w : Walker) (r : WalkRequest) (h : Handle) (s : State) :
      Opens s w r → Spells r.origin h → s.config.cacheEn = true → (∃ e ∈ s.cache, e.origin = h) →
      (∀ e ∈ s.cache, e.origin = h → s.config.hopLimit < e.hops) →
      Reads (.walkFirstAccess w) s ⟨w, r, s.epoch, s.config.hopLimit, h, 0, none⟩
        { s with cache := s.cache.filter (fun e => e.origin != h) }
  | later (w : Walker) (r : WalkRequest) (p : WalkProgress) (s : State) :
      Hops s w r p →
      Reads (.walkHopAccess w) s
        ⟨w, r, p.snapshot, p.limit, p.current, p.hops, some p.reading⟩ s

/-- The request a walk engine holds; none in IDLE and SHORTCUT (Table 4-4). -/
def requestOf : Engine → Option LinkRequest
  | .opening q => some q
  | .walking q _ => some q
  | .unpinning q => some q
  | .idle => none
  | .shortcut _ => none

/-- R149: the test of the drain condition at an event that can make it hold. -/
def drainTested (s : State) : State :=
  if s.gate = .draining ∧ (∀ p : Fin 4, (s.ports.get p).tags = []) ∧ s.engineA = .idle
      ∧ s.engineB = .idle then
    { s with gate := .closed, events := s.events ||| 0b010000#6 }
  else s

/-- R79: a walk engine that has ended its walk goes to SHORTCUT when one is called for, and otherwise to
IDLE, where the drain condition is tested. -/
def engineRests (s : State) (e : EngineId) (next : Option Shortcut) : State :=
  match next with
  | some c => { s with lastGranted := walkerClient (.engine e) }.setEngine e (.shortcut c)
  | none => drainTested ({ s with lastGranted := walkerClient (.engine e) }.setEngine e .idle)

/-- R160: RES2 of LOOKUP. -/
def lookupWord (x : WalkResult) : Word :=
  0#23 ++ BitVec.ofBool x.fromCache ++ 0#4 ++ BitVec.ofNat 4 x.hops

/-- The state after an access of LOOKUP or of a link walk that decides the walk's results: a response
for a walk engine (R81); a completion, or the wait for the shortcut access, for the window (R77). -/
def walkEnds (w : Walker) (s : State) (x : WalkResult) (next : Option Shortcut) : State :=
  match w with
  | .commandUnit =>
    match next, s.cmd with
    | none, _ => served s 0x10#8 x.outcome x.address x.final (lookupWord x)
    | some c, some k =>
      { s with lastGranted := .commandUnit, cmd := some { k with phase := .walkShortcut c x } }
    | some _, none => s
  | .engine e =>
    match requestOf (s.engine e) with
    | some q => engineRests { s with responses := s.responses ++ [⟨q.port, q.tag, x⟩] } e next
    | none => s

/-- The state after an access in which a link walk's request is parked on a slot (R110). -/
def walkParks (e : EngineId) (s : State) (n : Nat) (next : Option Shortcut) : State :=
  match requestOf (s.engine e) with
  | some q => engineRests { s with parkList := s.parkList ++ [⟨q, n⟩] } e next
  | none => s

/-- The state after an access in which a walk takes a hop (R63 check 4). -/
def walkGoesOn (w : Walker) (s : State) (r : WalkRequest) (p : WalkProgress) : State :=
  match w with
  | .commandUnit =>
    match s.cmd with
    | some k => { s with lastGranted := .commandUnit, cmd := some { k with phase := .walking r p } }
    | none => s
  | .engine e =>
    match requestOf (s.engine e) with
    | some q => { s with lastGranted := walkerClient (.engine e) }.setEngine e (.walking q p)
    | none => s

/-- R71: the results of a walk that is refused. -/
def refusal (o : OutcomeCode) (hops : Nat) (fromCache : Bool) : WalkResult :=
  ⟨o, 0#32, 0#32, hops, fromCache⟩

/-- R47, R69: the results of a walk that succeeds. -/
def success (r : WalkRequest) (x : Extent) (final : Handle) (hops : Nat) (fromCache : Bool) :
    WalkResult :=
  ⟨if hops = 0 then .resolved else .resolvedFwd, x.base + BitVec.ofNat 32 r.offset, handleWord final,
    hops, fromCache⟩

/-- R66: the final-record checks in their order, on a record's fields or a cache entry's. -/
def finalFailure (r : WalkRequest) (x : Extent) : Option OutcomeCode :=
  if r.domain ≠ 0#4 ∧ r.domain ≠ x.domain ∧ x.shared = false then some .domain
  else if ¬ ((r.access = .read ∧ x.rights.read = true) ∨ (r.access = .write ∧ x.rights.write = true))
  then some .rights
  else if x.length < r.offset + r.size then some .bounds
  else none

/-- R50: the cache after a final access at a LIVE record whose outcome allows a fill. The entry takes the
most recent place, in place of its origin's old entry or, in a full cache, of the least recent one
(R45). -/
def filledCache (s : State) (k : Look) (x : Extent) : List CacheEntry :=
  if s.config.cacheEn = true ∧ s.epoch = k.snapshot then
    (⟨Handle.ofWord k.req.origin, k.current, k.hops, x⟩
      :: s.cache.filter (fun e => e.origin != Handle.ofWord k.req.origin)).take 32
  else s.cache

/-- R72: the shortcut access that a final access calls for. -/
def shortcutOf (s : State) (k : Look) : Option Shortcut :=
  if 2 ≤ k.hops ∧ s.config.shortcutEn = true then
    k.reading.map (fun rd => ⟨(Handle.ofWord k.req.origin).slot, rd, k.current, k.snapshot⟩)
  else none

/-- R141: the request tests of a link request. -/
def LinkMalformed (r : WalkRequest) : Prop :=
  r.kind = .undefined ∨ Malformed r.origin ∨ (r.kind = .unpin ∧ Null r.origin)
    ∨ (r.kind ≠ .unpin ∧ (r.size = 0 ∨ 256 < r.size ∨ r.access = .undefined))

/-! ### Moves (chapter 6) -/

/-- R118: the state after the release that ends a move on slot `n`. -/
def released (s : State) (n : Nat) : State :=
  { s with
    releaseQueue := s.releaseQueue ++ (s.parkList.filter (fun p => p.slot == n)).map (fun p => p.request)
    parkList := s.parkList.filter (fun p => p.slot != n) }

/-- R118: how many requests that release moves. -/
def releasedCount (s : State) (n : Nat) : Nat := (s.parkList.filter (fun p => p.slot == n)).length

/-- Entry `i` is the one entry that names slot `n` (R100). -/
def NamedBy (s : State) (n : Nat) (i : Fin 4) : Prop :=
  (s.moves.get i).names n = true ∧ ∀ j, (s.moves.get j).names n = true → j = i

/-! ### Sweeps (chapter 7) -/

/-- Table 7-2: the fields of a record that the match rule compares. -/
def compared : Record → SweepFields
  | .live _ o => ⟨o.cls, o.ext.domain, o.ext.shared⟩
  | .moving _ o => ⟨o.cls, o.ext.domain, o.ext.shared⟩
  | .forwarded _ c _ => ⟨c, 0#4, false⟩
  | .free _ => ⟨0#8, 0#4, false⟩
  | .worn => ⟨0#8, 0#4, false⟩

/-- R124: a record matches a selection. -/
def Matches (sel : Selection) (r : Record) : Prop :=
  sel.states.getLsbD r.stateCode = true
    ∧ (∀ i, sel.care.cls.getLsbD i = true → (compared r).cls.getLsbD i = sel.pattern.cls.getLsbD i)
    ∧ (∀ i, sel.care.domain.getLsbD i = true →
        (compared r).domain.getLsbD i = sel.pattern.domain.getLsbD i)
    ∧ (sel.care.shared = true → (compared r).shared = sel.pattern.shared)

/-- R125 steps 3 and 4, R131: the end of a visit, with the three counters it leaves. -/
def visited (s : State) (matched acted skipped : Nat) : State :=
  let u := { s.sweep with cursor := s.sweep.cursor + 1, matched := matched, acted := acted
                          skipped := skipped }
  if s.sweep.sel.endSlot < s.sweep.cursor + 1 then
    { s with lastGranted := .sweepUnit, sweep := { u with state := .idle, endKind := .done }
             events := s.events ||| 0b000010#6 }
  else if s.sweep.state = .stopping then
    { s with lastGranted := .sweepUnit, sweep := { u with state := .idle, endKind := .stopped }
             events := s.events ||| 0b000010#6 }
  else { s with lastGranted := .sweepUnit, sweep := u }

/-! ### Configuration fields (Table 9-7) -/

/-- The range of a configuration field. -/
def fieldRange : Nat → Option (Nat × Nat)
  | 0 => some (1, 15)
  | 1 => some (0, 1)
  | 2 => some (0, 1)
  | 3 => some (1, 255)
  | 4 => some (1, 65535)
  | 5 => some (0, 4095)
  | _ => none

/-- The value of a configuration field. -/
def fieldValue (c : ConfigFields) : Nat → Nat
  | 0 => c.hopLimit
  | 1 => if c.shortcutEn then 1 else 0
  | 2 => if c.cacheEn then 1 else 0
  | 3 => c.tickDiv
  | 4 => c.moveWindow
  | 5 => c.freeLowMark
  | _ => 0

/-! ### Resets (section 9.5) -/

/-- What both resets give every block that neither keeps (Table 9-8). The cleared selection's values are
the model's (log 11), and so is that no acknowledge is kept (log 9); the first interval is counted to the
TICK_DIV in force (R102, log 12). -/
structure AfterReset (t : State) : Prop where
  records : ∀ n, t.record n = .free 1#8
  freeQueue : t.freeQueue = List.range' 1 4095
  wornCount : t.wornCount = 0
  lastGranted : t.lastGranted = .moveTimer
  cache : t.cache = []
  epoch : t.epoch = 0#16
  cmd : t.cmd = none
  args : t.args = ⟨0#32, 0#32, 0#32, 0#32⟩
  results : t.results = ⟨0#32, 0#32, 0#32⟩
  lastOutcome : t.lastOutcome = .done
  lastCommand : t.lastCommand = 0#8
  events : t.events = 0#6
  engines : t.engineA = .idle ∧ t.engineB = .idle
  queues : t.lookupQueue = [] ∧ t.releaseQueue = [] ∧ t.responses = []
  moves : ∀ i, t.moves.get i = .idle
  parkList : t.parkList = []
  timer : t.cycles = 0 ∧ t.interval = t.config.tickDiv ∧ t.expired = [] ∧ t.pendingExpiries = []
  sweepState : t.sweep.state = .idle ∧ t.sweep.endKind = .none
  selection : t.sweep.sel =
    { startSlot := 0, endSlot := 0, states := 0#5, action := .count, newClass := 0#8
      pattern := ⟨0#8, 0#4, false⟩, care := ⟨0#8, 0#4, false⟩ }
  sweepCounts : t.sweep.cursor = 0 ∧ t.sweep.matched = 0 ∧ t.sweep.acted = 0 ∧ t.sweep.skipped = 0
  gate : t.gate = .closed
  ports : ∀ p, t.ports.get p = ⟨4, []⟩
  acks : ∀ p, t.acks.get p = none

/-- The outputs while either reset is in progress (R43, R150, R162). -/
structure Silent (t : State) : Prop where
  granted : t.granted = none
  irq : t.irqActive = false
  linkReady : t.linkReady = false
  response : t.responseChannel = none

/-! ### The laws -/

/-- The Record Store is in its canonical form. -/
def StoreLaw (s : State) : Prop := Store.wf s.records = true

/-- R19, R21: the Free Slot Queue holds every FREE slot once and no other, the Worn Count is the number of
WORN slots, and no record is held outside 1..4095. -/
def QueueLaw (s : State) : Prop :=
  (∀ n, n ∈ s.freeQueue ↔ 1 ≤ n ∧ n ≤ 4095 ∧ ∃ g, s.record n = .free g)
    ∧ s.freeQueue.Nodup
    ∧ (∀ n, n = 0 ∨ 4095 < n → s.record n = resetRecord)
    ∧ s.wornCount = (List.range' 1 4095).countP (fun n => s.record n == .worn)

/-- R8: a record with a pin count above 0 is LIVE; so a MOVING record's count is 0. -/
def PinLaw (s : State) : Prop := ∀ n g o, s.record n = .moving g o → o.pins = 0#8

/-- R12, R100: a record is MOVING exactly when a COPYING entry names its slot, and no two entries that
are not IDLE name one slot. -/
def MoveLaw (s : State) : Prop :=
  (∀ n g o, s.record n = .moving g o → ∃ i b k, s.moves.get i = .copying n b k)
    ∧ (∀ i n b k, s.moves.get i = .copying n b k → ∃ g o, s.record n = .moving g o)
    ∧ (∀ i j n, (s.moves.get i).names n = true → (s.moves.get j).names n = true → i = j)

/-- R6: the three conditions on an extent. -/
abbrev ExtentOk (base : Word) (length : Nat) : Prop :=
  base.toNat % 16 = 0 ∧ length % 16 = 0 ∧ 16 ≤ length ∧ length ≤ 16777216
    ∧ base.toNat + length ≤ 4294967296

/-- R6: every LIVE or MOVING record satisfies the conditions on its extent, every new base in the Move
Table satisfies them with the length of its record, and the arguments of a CREATE, RESIZE or MOVE_BEGIN
that waits have passed their tests. -/
def ExtentLaw (s : State) : Prop :=
  (∀ n o, (s.record n).object = some o → ExtentOk o.ext.base o.ext.length)
    ∧ (∀ i n b k, s.moves.get i = .copying n b k →
        b.toNat % 16 = 0 ∧ ∀ o, (s.record n).object = some o → ExtentOk b o.ext.length)
    ∧ (∀ args, s.cmd = some ⟨.create, args, .single⟩ → ExtentOk args.at0 args.at1.toNat)
    ∧ (∀ args, s.cmd = some ⟨.resize, args, .single⟩ → legalLength args.at1.toNat = true)
    ∧ (∀ args, s.cmd = some ⟨.moveBegin, args, .single⟩ → args.at1.toNat % 16 = 0)

/-- R110: every Park List entry names a slot whose record is MOVING. -/
def ParkLaw (s : State) : Prop := ∀ p ∈ s.parkList, ∃ g o, s.record p.slot = .moving g o

/-- R83: the Park List and the Release Queue together hold at most 8 entries. -/
def ParkCapacity (s : State) : Prop := s.parkList.length + s.releaseQueue.length ≤ 8

/-- R44: every cache entry's final handle names a LIVE record of that generation with the entry's
fields; at most 32 entries, at most one for each origin handle. -/
def CacheLaw (s : State) : Prop :=
  (∀ e ∈ s.cache, ∃ o, s.record e.final.slot = .live e.final.gen o ∧ o.ext = e.ext)
    ∧ s.cache.length ≤ 32
    ∧ (s.cache.map (fun e => e.origin)).Nodup

/-- R129: the counter laws of RETIRE, RETAG and COUNT sweeps, the cursor within the range while a sweep
runs, and every count within 0..4095. -/
def SweepLaw (s : State) : Prop :=
  (s.sweep.sel.action = .retire → s.sweep.matched = s.sweep.acted + s.sweep.skipped)
    ∧ (s.sweep.sel.action = .retag → s.sweep.matched = s.sweep.acted ∧ s.sweep.skipped = 0)
    ∧ (s.sweep.sel.action = .count → s.sweep.acted = 0 ∧ s.sweep.skipped = 0)
    ∧ (s.sweep.state ≠ .idle →
        1 ≤ s.sweep.sel.startSlot ∧ s.sweep.sel.startSlot ≤ s.sweep.cursor
          ∧ s.sweep.cursor ≤ s.sweep.sel.endSlot ∧ s.sweep.sel.endSlot ≤ 4095
          ∧ s.sweep.matched + s.sweep.sel.startSlot ≤ s.sweep.cursor)
    ∧ s.sweep.cursor ≤ 4096 ∧ s.sweep.matched ≤ 4095

/-- The port and tag of the request a walk engine holds; none in IDLE and SHORTCUT (Table 8-2). -/
def engineRequests : Engine → List (Fin 4 × BitVec 4)
  | .idle => []
  | .opening r => [(r.port, r.tag)]
  | .walking r _ => [(r.port, r.tag)]
  | .unpinning r => [(r.port, r.tag)]
  | .shortcut _ => []

/-- The port and tag of every request in flight, place by place (Table 8-2). -/
def requestsHeld (s : State) : List (Fin 4 × BitVec 4) :=
  s.lookupQueue.map (fun r => (r.port, r.tag))
    ++ engineRequests s.engineA ++ engineRequests s.engineB
    ++ s.parkList.map (fun p => (p.request.port, p.request.tag))
    ++ s.releaseQueue.map (fun r => (r.port, r.tag))
    ++ s.responses.map (fun r => (r.port, r.tag))

/-- The tags of one port among requests. -/
def tagsOf (l : List (Fin 4 × BitVec 4)) (port : Fin 4) : List (BitVec 4) :=
  (l.filter (fun x => x.1 == port)).map (fun x => x.2)

/-- R136, R140: on each port, credits and requests in flight make 4, the tags are distinct, and the tag
set is exactly the tags of the requests that some place of the part holds, each held once. -/
def LinkLaw (s : State) : Prop :=
  ∀ port, (s.ports.get port).credits + (s.ports.get port).tags.length = 4
    ∧ (s.ports.get port).tags.Nodup
    ∧ (tagsOf (requestsHeld s) port).Perm (s.ports.get port).tags

/-- R147, R149: while the gate is CLOSED no request is in flight, in no place of Table 8-2, and both walk
engines are IDLE. -/
def ClosedLaw (s : State) : Prop :=
  s.gate = .closed →
    (∀ port, (s.ports.get port).tags = []) ∧ requestsHeld s = [] ∧ s.engineA = .idle ∧ s.engineB = .idle

/-- A walk in progress stands at a hop count from 1 to the HOP_LIMIT it took, itself at most 15. -/
def ProgressOk (p : WalkProgress) : Prop := 1 ≤ p.hops ∧ p.hops ≤ p.limit ∧ p.limit ≤ 15

/-- R64: HOP_LIMIT is 1..15, every walk keeps within the limit it took, and every reported hop count is
at most 15. -/
def HopLaw (s : State) : Prop :=
  (1 ≤ s.config.hopLimit ∧ s.config.hopLimit ≤ 15)
    ∧ (∀ e r p, s.engine e = .walking r p → ProgressOk p)
    ∧ (∀ c r p, s.cmd = some c → c.phase = .walking r p → ProgressOk p)
    ∧ (∀ c sc result, s.cmd = some c → c.phase = .walkShortcut sc result → result.hops ≤ 15)
    ∧ (∀ r ∈ s.responses, r.result.hops ≤ 15)

/-- Table 9-7, R103, R146: each configuration field is in its range, the Move Timer's counter is within
its interval, each entry has at most one expiry noted or pending (log 6), and no port holds domain 0. -/
def SettingsLaw (s : State) : Prop :=
  (1 ≤ s.config.hopLimit ∧ s.config.hopLimit ≤ 15)
    ∧ (1 ≤ s.config.tickDiv ∧ s.config.tickDiv ≤ 255)
    ∧ (1 ≤ s.config.moveWindow ∧ s.config.moveWindow ≤ 65535)
    ∧ s.config.freeLowMark ≤ 4095
    ∧ (1 ≤ s.interval ∧ s.interval ≤ 255) ∧ s.cycles < s.interval
    ∧ (s.pendingExpiries ++ s.expired).Nodup
    ∧ ∀ port, s.portDomains.get port ≠ 0#4

end Sys2Proof.Safety
end

