-- ==== Sys2Proof/Certificates/Slice0/Obligations.lean ====
section
/-! DEFINITION. The statements for the provers, each a proposition; OBLIGATIONS.json lists them. -/

open Sys2Proof Sys2Proof.Machine Sys2Proof.Safety

/-! ### The queue of events -/

/-- A step with an event at the front of the queue is that event's effect on the state with the queue's
rest (log 1). -/
def Obligations.StepRunsTheFrontEvent : Prop :=
  ∀ (c : Instr) (s : State), step { s with pending := c :: s.pending } = exec c s

/-- The model's choice (log 4): a step on an empty queue is one core-clock cycle of the Move Timer. It
counts up to the value under which the interval began and then delivers a tick; it counts nothing during
a reset. -/
def Obligations.EmptyQueueCountsAClockCycle : Prop :=
  ∀ s : State, s.pending = [] →
    (s.phase ≠ .running → step s = .next s)
    ∧ (s.phase = .running → s.cycles + 1 < s.interval →
        step s = .next { s with cycles := s.cycles + 1 })
    ∧ (s.phase = .running → s.interval ≤ s.cycles + 1 → step s = exec .tick s)

/-- Every event answers a next state, whatever the state, and leaves the queue of what is still to
happen alone: no fault, no refusal. R70 has every refusal of the part be an outcome code; the queue (log 1),
that an event the part is not in a position to make changes nothing (log 2), and the states that no run
reaches (log 10) are the model's choices. -/
def Obligations.EveryEventAnswersANextState : Prop :=
  ∀ (i : Instr) (s : State), ∃ t, exec i s = .next t ∧ t.pending = s.pending

/-! ### Resets and arbitration -/

/-- RESET held: no access, no window read (log 13), no link traffic, IRQ inactive, LINK_READY low. RESET
released: every block in its power-on state, the words as Table 9-1 gives them, LINK_READY high. What the
cleared selection, the kept acknowledges and the first tick interval hold is in logs 11, 9 and 12. -/
def Obligations.ResetInputStopsAndResetsThePart : Prop :=
  ∀ s : State,
    (∃ t, exec .resetAssert s = .next t ∧ t.phase = .held ∧ Silent t ∧ t.pending = s.pending
      ∧ ∀ w, t.readWord w = none)
    ∧ (s.phase = .held → ∃ t, exec .resetRelease s = .next t ∧ t.phase = .running ∧ AfterReset t
        ∧ t.pending = s.pending ∧ t.linkReady = true ∧ t.irqActive = false
        ∧ t.portDomains = ⟨1#4, 2#4, 3#4, 4#4⟩ ∧ t.eventEnable = 0#6
        ∧ t.config = ⟨8, false, true, 100, 1000, 64⟩
        ∧ t.readWord .counts = some 0x00000FFF#32
        ∧ ∀ w, w ≠ .counts → t.readWord w = some 0#32)

/-- A write of WINDOW_RESET with bit 0 set gives every block its reset state, keeps the Port Domain
Table, the configuration fields and EVENT_ENABLE, and sets RESETTING; with bit 0 clear it has no effect.
The completion clears RESETTING and changes nothing else. The write makes the reset state at once (log 8);
what the cleared selection, the kept acknowledges and the first tick interval hold is in logs 11, 9 and
12. -/
def Obligations.WindowResetKeepsTheSettings : Prop :=
  (∀ (s : State) (value : Word), s.phase = .running →
    (value.getLsbD 0 = true → ∃ t, exec (.windowReset value) s = .next t ∧ t.phase = .resetting
      ∧ AfterReset t ∧ Silent t ∧ t.pending = s.pending ∧ t.portDomains = s.portDomains
      ∧ t.config = s.config ∧ t.eventEnable = s.eventEnable ∧ t.readWord .status = some 2#32)
    ∧ (value.getLsbD 0 = false → exec (.windowReset value) s = .next s))
  ∧ ∀ s : State, s.phase = .resetting →
      exec .windowResetComplete s = .next { s with phase := .running }

/-- While either reset is in progress, every event but those of the resets themselves is lost: accesses,
COMMAND and other window writes, link requests, response acceptances, takes, ticks. -/
def Obligations.NothingActsDuringAReset : Prop :=
  ∀ (i : Instr) (s : State), s.phase ≠ .running → actsDuringReset i = false → exec i s = .next s

/-- The model's choice (log 2): a directory access of a client that is not the one granted changes
nothing. -/
def Obligations.UngrantedAccessChangesNothing : Prop :=
  ∀ (i : Instr) (c : Client) (s : State), accessClient i = some c → s.granted ≠ some c →
    exec i s = .next s

/-- R39: a client waits exactly while its work is unfinished: a command in progress, a walk engine that is
not IDLE, a sweep that is not IDLE, an expiry whose access has not been granted (log 3; noted or pending,
log 6). R40: outside the resets the client granted is the first waiting one after the last client granted,
there is one whenever a client waits, and each grant to another brings a waiting client's turn nearer;
no client is more than four grants away. -/
def Obligations.GrantsFollowTheRotation : Prop :=
  (∀ s : State, (s.waiting .commandUnit = true ↔ s.cmd ≠ none)
    ∧ (s.waiting .engineA = true ↔ s.engineA ≠ .idle) ∧ (s.waiting .engineB = true ↔ s.engineB ≠ .idle)
    ∧ (s.waiting .sweepUnit = true ↔ s.sweep.state ≠ .idle)
    ∧ (s.waiting .moveTimer = true ↔ s.pendingExpiries ≠ [] ∨ s.expired ≠ []))
  ∧ ∀ s : State, s.phase = .running →
    (∀ c, s.granted = some c ↔
      s.waiting c = true ∧ ∀ d, s.waiting d = true → turns s.lastGranted c ≤ turns s.lastGranted d)
    ∧ ((∃ c, s.waiting c = true) → ∃ c, s.granted = some c)
    ∧ (∀ c d, s.waiting c = true → s.granted = some d → d ≠ c →
        turns d c < turns s.lastGranted c ∧ turns s.lastGranted c ≤ 4)

/-! ### The Control Window -/

/-- R156: a COMMAND write while BUSY sets COLLIDE and changes nothing else; while RESETTING it is
ignored. -/
def Obligations.CommandWriteWhileBusyCollides : Prop :=
  ∀ (i : Instr) (s : State), ((∃ k, (i, k) ∈ submissions) ∨ ∃ w, i = .unknownCommand w) →
    (s.phase = .running → s.cmd ≠ none →
      exec i s = .next { s with events := s.events ||| 0b100000#6 })
    ∧ (s.phase = .resetting → exec i s = .next s)

/-- R158: a code that names no command of Table 9-4, in bits 7:0 of the word, completes at once with
UNKNOWN_COMMAND. -/
def Obligations.UnknownCodeCompletesAtOnce : Prop :=
  ∀ (w : Word) (s : State), Accepting s →
    w.extractLsb' 0 8 ∉ [0x01#8, 0x02#8, 0x03#8, 0x04#8, 0x05#8, 0x08#8, 0x09#8, 0x0A#8, 0x10#8, 0x11#8,
      0x18#8, 0x19#8, 0x1A#8, 0x20#8, 0x21#8, 0x28#8, 0x29#8, 0x2A#8, 0x30#8, 0x31#8] →
    exec (.unknownCommand w) s =
      .next (completed s (w.extractLsb' 0 8) .unknownCommand 0#32 0#32 0#32)

/-- A write of the Control Window is the event that Table 9-1 gives the word at its byte offset: a write of
COMMAND is the row its code names in Table 9-4, or UNKNOWN_COMMAND. Outside the resets a write of an
argument word changes that word alone, also while a command is in progress; a write of a read-only word
changes nothing. The division of the writes between rows is the table's, with operands of the model
(log 14). -/
def Obligations.RegisterWritesReachTheArgumentWordsAlone : Prop :=
  ∀ (s : State) (v : Word),
    (s.phase = .running →
      exec (.registerWrite .arg0 v) s = .next { s with args := { s.args with at0 := v } }
      ∧ exec (.registerWrite .arg1 v) s = .next { s with args := { s.args with at1 := v } }
      ∧ exec (.registerWrite .arg2 v) s = .next { s with args := { s.args with at2 := v } }
      ∧ exec (.registerWrite .arg3 v) s = .next { s with args := { s.args with at3 := v } })
    ∧ (∀ w ∈ [WindowWord.res0, .res1, .res2, .status, .counts, .sweepCursor, .sweepCounts, .epoch],
        exec (.registerWrite w v) s = .next s)
    ∧ (v.getLsbD 0 = false → exec (.registerWrite .sweepSkipped v) s = .next s)
    ∧ (∀ p ∈ commandTable, v.extractLsb' 0 8 = p.1 → windowWrite (selectOf 0x00) v = p.2)
    ∧ ((∀ p ∈ commandTable, v.extractLsb' 0 8 ≠ p.1) →
        windowWrite (selectOf 0x00) v = .unknownCommand v)
    ∧ windowWrite (selectOf 0x24) v = .eventsWrite v
    ∧ windowWrite (selectOf 0x28) v = .eventEnableWrite v
    ∧ (v.getLsbD 0 = true → windowWrite (selectOf 0x38) v = .windowReset v)
    ∧ (v.getLsbD 0 = false → windowWrite (selectOf 0x38) v = .registerWrite .sweepSkipped v)
    ∧ (∀ p ∈ windowLayout, p.1 ∉ [0x00, 0x24, 0x28, 0x38] →
        windowWrite (selectOf p.1) v = .registerWrite p.2 v)

/-- A write of EVENTS clears the flags it marks, a write of EVENT_ENABLE sets the enables, and IRQ is
active exactly while some flag and its enable are both set. -/
def Obligations.EventFlagsEnablesAndTheInterrupt : Prop :=
  ∀ (s : State) (v : Word), s.phase = .running →
    (∃ t, exec (.eventsWrite v) s = .next t ∧ t = { s with events := t.events }
      ∧ ∀ i, i < 6 → t.events.getLsbD i = (s.events.getLsbD i && !v.getLsbD i))
    ∧ (∃ t, exec (.eventEnableWrite v) s = .next t ∧ t = { s with eventEnable := t.eventEnable }
      ∧ ∀ i, i < 6 → t.eventEnable.getLsbD i = v.getLsbD i)
    ∧ (s.irqActive = true ↔ ∃ i, i < 6 ∧ s.events.getLsbD i = true ∧ s.eventEnable.getLsbD i = true)

/-- Every word shows the state it is a view of. STATUS, COUNTS and SWEEP_COUNTS stand field by field as
Table 9-2 places them, the other window words whole, each at its byte offset of Table 9-1; outcomes and
acknowledges have the codes of Tables 4-2 and 8-1; the response channel presents the head of the Response
Queue, in the words of Table 8-1. The counters are within the widths that R21, R129 and R131 give them, and
a response's hop count within that of R64. That words and pins are views is the model's choice (log 13),
and so is the kept acknowledge (log 9). -/
def Obligations.StatusWordsShowTheState : Prop :=
  (∀ s : State, s.phase ≠ .held → s.freeQueue.length ≤ 4095 → s.wornCount ≤ 4095 →
    s.sweep.matched ≤ 4095 → s.sweep.acted ≤ 4095 →
    (∃ w, s.readWord .status = some w
      ∧ (w.getLsbD 0 = true ↔ s.cmd ≠ none)
      ∧ (w.getLsbD 1 = true ↔ s.phase = .resetting)
      ∧ (s.lastOutcome, w.extractLsb' 8 8) ∈ outcomeTable
      ∧ (w.extractLsb' 16 2 = 0#2 ↔ s.gate = .closed) ∧ (w.extractLsb' 16 2 = 1#2 ↔ s.gate = .draining)
      ∧ (w.extractLsb' 16 2 = 2#2 ↔ s.gate = .opened)
      ∧ (w.extractLsb' 18 2 = 0#2 ↔ s.sweep.state = .idle)
      ∧ (w.extractLsb' 18 2 = 1#2 ↔ s.sweep.state = .running)
      ∧ (w.extractLsb' 18 2 = 2#2 ↔ s.sweep.state = .stopping)
      ∧ (w.extractLsb' 20 2 = 0#2 ↔ s.sweep.endKind = .none)
      ∧ (w.extractLsb' 20 2 = 1#2 ↔ s.sweep.endKind = .done)
      ∧ (w.extractLsb' 20 2 = 2#2 ↔ s.sweep.endKind = .stopped)
      ∧ w.extractLsb' 24 8 = s.lastCommand
      ∧ w.extractLsb' 2 6 = 0#6 ∧ w.extractLsb' 22 2 = 0#2)
    ∧ (∃ w, s.readWord .counts = some w ∧ (w.extractLsb' 0 12).toNat = s.freeQueue.length
      ∧ (w.extractLsb' 16 12).toNat = s.wornCount ∧ w.extractLsb' 12 4 = 0#4
      ∧ w.extractLsb' 28 4 = 0#4)
    ∧ (∃ w, s.readWord .sweepCounts = some w ∧ (w.extractLsb' 0 12).toNat = s.sweep.matched
      ∧ (w.extractLsb' 16 12).toNat = s.sweep.acted ∧ w.extractLsb' 12 4 = 0#4
      ∧ w.extractLsb' 28 4 = 0#4))
  ∧ (∀ s : State, s.phase ≠ .held →
    s.readWord .command = some 0#32
    ∧ s.readWord .arg0 = some s.args.at0 ∧ s.readWord .arg1 = some s.args.at1
    ∧ s.readWord .arg2 = some s.args.at2 ∧ s.readWord .arg3 = some s.args.at3
    ∧ s.readWord .res0 = some s.results.res0 ∧ s.readWord .res1 = some s.results.res1
    ∧ s.readWord .res2 = some s.results.res2
    ∧ s.readWord .events = some (s.events.setWidth 32)
    ∧ s.readWord .eventEnable = some (s.eventEnable.setWidth 32)
    ∧ s.readWord .epoch = some (s.epoch.setWidth 32)
    ∧ (s.sweep.cursor ≤ 4096 → s.readWord .sweepCursor = some (BitVec.ofNat 32 s.sweep.cursor))
    ∧ (s.sweep.skipped ≤ 4095 → s.readWord .sweepSkipped = some (BitVec.ofNat 32 s.sweep.skipped)))
  ∧ (∀ s : State, ∀ p ∈ windowLayout, s.readAt (selectOf p.1) = s.readWord p.2)
  ∧ ((∀ p ∈ outcomeTable, p.1.code = p.2) ∧ (∀ o, ∃ c, (o, c) ∈ outcomeTable)
    ∧ (∀ p ∈ ackTable, p.1.code = p.2) ∧ ∀ a, ∃ c, (a, c) ∈ ackTable)
  ∧ (∀ r : Response, r.result.hops ≤ 15 → ResponseWords r)
  ∧ ∀ s : State, s.phase = .running → s.responseChannel = s.responses.head?

/-- R3: the commands that name a record by a handle refuse a malformed word BAD_ARGUMENT and a null one
NULL_HANDLE at acceptance; FORWARD's `to` is refused BAD_ARGUMENT for either, after `from`; LOOKUP
refuses a malformed word MALFORMED. The others wait for their access. -/
def Obligations.HandleFormsAreTestedAtAcceptance : Prop :=
  ∀ s : State, Accepting s →
    (∀ i k, (i, k) ∈ namingSubmissions → FormTested i k.code s)
    ∧ (∀ i k, (i, k) ∈ handleSubmissions → ¬ Malformed s.args.at0 → ¬ Null s.args.at0 →
        exec i s = .next (accepted s k .single))
    ∧ (¬ Malformed s.args.at0 → ¬ Null s.args.at0 → (Malformed s.args.at1 ∨ Null s.args.at1) →
        exec .forward s = .next (completed s 0x11#8 .badArgument 0#32 0#32 0#32))
    ∧ (Malformed s.args.at0 →
        exec .lookup s = .next (completed s 0x10#8 .malformed 0#32 0#32 0#32))

/-! ### Records (chapters 1 and 2) -/

/-- CREATE: its acceptance tests (R24), and its access, which takes the head slot of the Free Slot Queue,
makes its record LIVE and judges FREE_LOW, or reports NO_SLOT. -/
def Obligations.CreateTakesTheHeadSlot : Prop :=
  (∀ s : State, Accepting s →
    (CreateArgumentsPass s.args → exec .create s = .next (accepted s .create .single))
    ∧ (¬ CreateArgumentsPass s.args →
        exec .create s = .next (completed s 0x01#8 .badArgument 0#32 0#32 0#32)))
  ∧ ∀ (s : State) (args : Quad Word), ServesSingle s .create args →
    (s.freeQueue = [] → exec .createAccess s = .next (served s 0x01#8 .noSlot 0#32 0#32 0#32))
    ∧ ∀ n rest, s.freeQueue = n :: rest → ∃ t, exec .createAccess s = .next t
        ∧ t.record n = .live (s.record n).gen (objectOf args) ∧ RecordsAgreeBut s t n
        ∧ t = { served s 0x01#8 .done (handleWord ⟨n, (s.record n).gen⟩)
                  (BitVec.ofNat 32 rest.length) 0#32 with
                records := t.records, freeQueue := rest
                events :=
                  (if 0 < s.config.freeLowMark ∧ s.config.freeLowMark ≤ rest.length + 1
                      ∧ rest.length < s.config.freeLowMark
                    then s.events ||| 0b001000#6 else s.events) ||| 0b000001#6 }

/-- RETIRE's access: its refusals in order, and otherwise the retire effect of R28 with the three results
of R31. -/
def Obligations.RetireEndsTheUseOfASlot : Prop :=
  ∀ (s : State) (args : Quad Word) (h : Handle), ServesHandle s .retire args h →
    (s.record h.slot = .worn →
      exec .retireAccess s = .next (served s 0x02#8 .worn 0#32 0#32 0#32))
    ∧ (Stale h (s.record h.slot) →
        exec .retireAccess s = .next (served s 0x02#8 .stale 0#32 0#32 0#32))
    ∧ (∀ o, s.record h.slot = .moving h.gen o →
        exec .retireAccess s = .next (served s 0x02#8 .moving 0#32 0#32 0#32))
    ∧ (∀ o, s.record h.slot = .live h.gen o → o.pins ≠ 0#8 →
        exec .retireAccess s = .next (served s 0x02#8 .pinned 0#32 0#32 0#32))
    ∧ ((∃ o, s.record h.slot = .live h.gen o ∧ o.pins = 0#8)
          ∨ (∃ c target, s.record h.slot = .forwarded h.gen c target) →
        ∃ t, exec .retireAccess s = .next t
          ∧ t.record h.slot = spent h.gen ∧ RecordsAgreeBut s t h.slot
          ∧ t = served { afterRetire s h.slot with records := t.records } 0x02#8 .done
                  (BitVec.ofNat 32 (if h.gen = 255#8 then 255 else h.gen.toNat + 1))
                  (BitVec.ofNat 32 (afterRetire s h.slot).freeQueue.length)
                  (BitVec.ofNat 32 (afterRetire s h.slot).wornCount))

/-- The window's PIN and UNPIN raise and lower the pin count of a LIVE record within 0..255, and refuse
every other record in the order of R32 and R33. -/
def Obligations.PinAndUnpinCountHolds : Prop :=
  (∀ (s : State) (args : Quad Word) (h : Handle), ServesHandle s .pin args h →
    (s.record h.slot = .worn → exec .pinAccess s = .next (served s 0x03#8 .worn 0#32 0#32 0#32))
    ∧ (Stale h (s.record h.slot) →
        exec .pinAccess s = .next (served s 0x03#8 .stale 0#32 0#32 0#32))
    ∧ (∀ o, s.record h.slot = .moving h.gen o →
        exec .pinAccess s = .next (served s 0x03#8 .moving 0#32 0#32 0#32))
    ∧ (∀ c target, s.record h.slot = .forwarded h.gen c target →
        exec .pinAccess s = .next (served s 0x03#8 .notLive 0#32 0#32 0#32))
    ∧ (∀ o, s.record h.slot = .live h.gen o → o.pins = 255#8 →
        exec .pinAccess s = .next (served s 0x03#8 .pinLimit 0#32 0#32 0#32))
    ∧ (∀ o, s.record h.slot = .live h.gen o → o.pins ≠ 255#8 → ∃ t, exec .pinAccess s = .next t
        ∧ t.record h.slot = .live h.gen { o with pins := o.pins + 1#8 } ∧ RecordsAgreeBut s t h.slot
        ∧ t = served { s with records := t.records } 0x03#8 .done (BitVec.ofNat 32 (o.pins.toNat + 1))
                0#32 0#32))
  ∧ ∀ (s : State) (args : Quad Word) (h : Handle), ServesHandle s .unpin args h →
    (s.record h.slot = .worn → exec .unpinAccess s = .next (served s 0x04#8 .worn 0#32 0#32 0#32))
    ∧ (Stale h (s.record h.slot) →
        exec .unpinAccess s = .next (served s 0x04#8 .stale 0#32 0#32 0#32))
    ∧ (∀ o, s.record h.slot = .moving h.gen o →
        exec .unpinAccess s = .next (served s 0x04#8 .moving 0#32 0#32 0#32))
    ∧ (∀ c target, s.record h.slot = .forwarded h.gen c target →
        exec .unpinAccess s = .next (served s 0x04#8 .notLive 0#32 0#32 0#32))
    ∧ (∀ o, s.record h.slot = .live h.gen o → o.pins = 0#8 →
        exec .unpinAccess s = .next (served s 0x04#8 .unpinUnderflow 0#32 0#32 0#32))
    ∧ (∀ o, s.record h.slot = .live h.gen o → o.pins ≠ 0#8 → ∃ t, exec .unpinAccess s = .next t
        ∧ t.record h.slot = .live h.gen { o with pins := o.pins - 1#8 } ∧ RecordsAgreeBut s t h.slot
        ∧ t = served { s with records := t.records } 0x04#8 .done (BitVec.ofNat 32 (o.pins.toNat - 1))
                0#32 0#32)

/-- CLEAR_DIRECTORY waits for its clear access without a test of arguments. The clear access is refused
BUSY with the sum of the failed preconditions' values, and otherwise gives the directory its reset
contents and keeps everything else. -/
def Obligations.ClearGivesTheDirectoryItsResetContents : Prop :=
  (∀ s : State, Accepting s →
    exec .clearDirectory s = .next (accepted s .clearDirectory .single))
  ∧ ∀ (s : State) (args : Quad Word), ServesSingle s .clearDirectory args →
    (blockers s ≠ 0 →
      exec .clearAccess s = .next (served s 0x05#8 .busy (BitVec.ofNat 32 (blockers s)) 0#32 0#32))
    ∧ (blockers s = 0 → ∃ t, exec .clearAccess s = .next t ∧ (∀ n, t.record n = .free 1#8)
        ∧ t = served { s with records := t.records, freeQueue := List.range' 1 4095, wornCount := 0
                              cache := [], epoch := 0#16 } 0x05#8 .done
                (BitVec.ofNat 32 s.wornCount) (BitVec.ofNat 32 s.freeQueue.length) 0#32)

/-- ALTER: its acceptance tests (R14), its refusals, and the replacement of the selected fields of a LIVE
or MOVING record, with cache removal when an access-control field is selected (R15). -/
def Obligations.AlterReplacesTheSelectedFields : Prop :=
  (∀ s : State, Accepting s →
    FormTested .alter 0x08#8 s
    ∧ (¬ Malformed s.args.at0 → ¬ Null s.args.at0 → ¬ AlterWordPasses s.args.at1 →
        exec .alter s = .next (completed s 0x08#8 .badArgument 0#32 0#32 0#32))
    ∧ (¬ Malformed s.args.at0 → ¬ Null s.args.at0 → AlterWordPasses s.args.at1 →
        exec .alter s = .next (accepted s .alter .single)))
  ∧ ∀ (s : State) (args : Quad Word) (h : Handle), ServesHandle s .alter args h →
    (s.record h.slot = .worn → exec .alterAccess s = .next (served s 0x08#8 .worn 0#32 0#32 0#32))
    ∧ (Stale h (s.record h.slot) →
        exec .alterAccess s = .next (served s 0x08#8 .stale 0#32 0#32 0#32))
    ∧ (∀ c target, s.record h.slot = .forwarded h.gen c target →
        exec .alterAccess s = .next (served s 0x08#8 .notLive 0#32 0#32 0#32))
    ∧ (∀ o, s.record h.slot = .live h.gen o ∨ s.record h.slot = .moving h.gen o →
        ∃ t, exec .alterAccess s = .next t
          ∧ (s.record h.slot = .live h.gen o → t.record h.slot = .live h.gen (altered args.at1 o))
          ∧ (s.record h.slot = .moving h.gen o → t.record h.slot = .moving h.gen (altered args.at1 o))
          ∧ RecordsAgreeBut s t h.slot
          ∧ t = served { s with
                  records := t.records
                  cache := if args.at1.extractLsb' 28 3 = 0#3 then s.cache
                    else withoutFinal s.cache h.slot } 0x08#8 .done 0#32 0#32 0#32)

/-- RESIZE: its acceptance tests, its refusals in order, and the new length with cache removal (R16). -/
def Obligations.ResizeGivesANewLength : Prop :=
  (∀ s : State, Accepting s →
    FormTested .resize 0x09#8 s
    ∧ (¬ Malformed s.args.at0 → ¬ Null s.args.at0 →
        (s.args.at1.toNat % 16 = 0 ∧ 16 ≤ s.args.at1.toNat ∧ s.args.at1.toNat ≤ 16777216 →
          exec .resize s = .next (accepted s .resize .single))
        ∧ (¬ (s.args.at1.toNat % 16 = 0 ∧ 16 ≤ s.args.at1.toNat ∧ s.args.at1.toNat ≤ 16777216) →
          exec .resize s = .next (completed s 0x09#8 .badArgument 0#32 0#32 0#32))))
  ∧ ∀ (s : State) (args : Quad Word) (h : Handle), ServesHandle s .resize args h →
    (s.record h.slot = .worn → exec .resizeAccess s = .next (served s 0x09#8 .worn 0#32 0#32 0#32))
    ∧ (Stale h (s.record h.slot) →
        exec .resizeAccess s = .next (served s 0x09#8 .stale 0#32 0#32 0#32))
    ∧ (∀ c target, s.record h.slot = .forwarded h.gen c target →
        exec .resizeAccess s = .next (served s 0x09#8 .notLive 0#32 0#32 0#32))
    ∧ (∀ o, s.record h.slot = .moving h.gen o →
        exec .resizeAccess s = .next (served s 0x09#8 .moving 0#32 0#32 0#32))
    ∧ (∀ o, s.record h.slot = .live h.gen o →
        (4294967296 < o.ext.base.toNat + args.at1.toNat →
          exec .resizeAccess s = .next (served s 0x09#8 .badArgument 0#32 0#32 0#32))
        ∧ (o.ext.base.toNat + args.at1.toNat ≤ 4294967296 → ∃ t, exec .resizeAccess s = .next t
            ∧ t.record h.slot = .live h.gen { o with ext := { o.ext with length := args.at1.toNat } }
            ∧ RecordsAgreeBut s t h.slot
            ∧ t = served { s with records := t.records, cache := withoutFinal s.cache h.slot } 0x09#8
                    .done (BitVec.ofNat 32 o.ext.length) 0#32 0#32))

/-- READ_RECORD: its acceptance test, and the record of any state in the layout of Table 9-6, with
nothing else changed (R17). -/
def Obligations.ReadRecordReturnsTheRecord : Prop :=
  (∀ s : State, Accepting s →
    (1 ≤ s.args.at0.toNat ∧ s.args.at0.toNat ≤ 4095 →
      exec .readRecord s = .next (accepted s .readRecord .single))
    ∧ (¬ (1 ≤ s.args.at0.toNat ∧ s.args.at0.toNat ≤ 4095) →
      exec .readRecord s = .next (completed s 0x0A#8 .badArgument 0#32 0#32 0#32)))
  ∧ ∀ (s : State) (args : Quad Word), ServesSingle s .readRecord args →
    (∀ g, s.record args.at0.toNat = .free g → exec .readRecordAccess s =
      .next (served s 0x0A#8 .done (0#16 ++ g ++ 0x00#8) 0#32 0#32))
    ∧ (∀ g o, s.record args.at0.toNat = .live g o → exec .readRecordAccess s =
      .next (served s 0x0A#8 .done (o.pins ++ o.cls ++ g ++ 0x31#8) o.ext.base
        (o.ext.domain ++ BitVec.ofBool o.ext.shared ++ BitVec.ofBool o.ext.rights.write
          ++ BitVec.ofBool o.ext.rights.read ++ BitVec.ofNat 25 o.ext.length)))
    ∧ (∀ g o, s.record args.at0.toNat = .moving g o → exec .readRecordAccess s =
      .next (served s 0x0A#8 .done (o.pins ++ o.cls ++ g ++ 0x32#8) o.ext.base
        (o.ext.domain ++ BitVec.ofBool o.ext.shared ++ BitVec.ofBool o.ext.rights.write
          ++ BitVec.ofBool o.ext.rights.read ++ BitVec.ofNat 25 o.ext.length)))
    ∧ (∀ g c target, s.record args.at0.toNat = .forwarded g c target → exec .readRecordAccess s =
      .next (served s 0x0A#8 .done (0#8 ++ c ++ g ++ 0x63#8) (handleWord target) 0#32))
    ∧ (s.record args.at0.toNat = .worn → exec .readRecordAccess s =
      .next (served s 0x0A#8 .done 0x0000FF04#32 0#32 0#32))

/-! ### Resolution (chapters 3 and 4) -/

/-- LOOKUP at acceptance: MALFORMED on a malformed handle, an offset above 24 bits, a size outside 1..256
or an undefined access code; otherwise its walk, with requester domain 0, waits for its first access
(R76). -/
def Obligations.LookupTestsItsRequest : Prop :=
  ∀ s : State, Accepting s →
    (Malformed s.args.at0 ∨ 16777216 ≤ s.args.at1.toNat ∨ (s.args.at2.extractLsb' 0 9).toNat = 0
        ∨ 256 < (s.args.at2.extractLsb' 0 9).toNat ∨ 2 ≤ (s.args.at2.extractLsb' 16 2).toNat →
      exec .lookup s = .next (completed s 0x10#8 .malformed 0#32 0#32 0#32))
    ∧ (¬ Malformed s.args.at0 → s.args.at1.toNat < 16777216 →
        1 ≤ (s.args.at2.extractLsb' 0 9).toNat → (s.args.at2.extractLsb' 0 9).toNat ≤ 256 →
        (s.args.at2.extractLsb' 16 2).toNat < 2 →
        exec .lookup s = .next (accepted s .lookup (.walkOpening
          { origin := s.args.at0, offset := s.args.at1.toNat
            size := (s.args.at2.extractLsb' 0 9).toNat
            access := if s.args.at2.extractLsb' 16 2 = 0#2 then .read else .write
            kind := .lookup, domain := 0#4 })))

/-- A first access ends the walk at once on a null origin, and on a cache hit: the final-record checks are
made on the entry's fields, the entry becomes most recent, and a LOOKUP_PIN pins the final record. -/
def Obligations.FirstAccessOfNullOriginOrHit : Prop :=
  ∀ (s : State) (w : Walker) (r : WalkRequest), Opens s w r →
    (Null r.origin →
      exec (.walkFirstAccess w) s = .next (walkEnds w s (refusal .nullHandle 0 false) none))
    ∧ ∀ before e after, s.config.cacheEn = true → s.cache = before ++ e :: after →
      Spells r.origin e.origin → (∀ f ∈ before ++ after, f.origin ≠ e.origin) →
      e.hops ≤ s.config.hopLimit →
      (∀ out, finalFailure r e.ext = some out →
        exec (.walkFirstAccess w) s = .next (walkEnds w { s with cache := e :: (before ++ after) }
          (refusal out e.hops true) none))
      ∧ (finalFailure r e.ext = none → r.kind ≠ .lookupPin →
        exec (.walkFirstAccess w) s = .next (walkEnds w { s with cache := e :: (before ++ after) }
          (success r e.ext e.final e.hops true) none))
      ∧ (∀ o, finalFailure r e.ext = none → r.kind = .lookupPin →
        s.record e.final.slot = .live e.final.gen o →
        (o.pins = 255#8 →
          exec (.walkFirstAccess w) s = .next (walkEnds w { s with cache := e :: (before ++ after) }
            (refusal .pinLimit e.hops true) none))
        ∧ (o.pins ≠ 255#8 → ∃ t, exec (.walkFirstAccess w) s = .next t
            ∧ t.record e.final.slot = .live e.final.gen { o with pins := o.pins + 1#8 }
            ∧ RecordsAgreeBut s t e.final.slot
            ∧ t = walkEnds w { s with cache := e :: (before ++ after), records := t.records }
                    (success r e.ext e.final e.hops true) none))

/-- R63 checks 1 to 4: a walk ends WORN, STALE or DANGLING, or CHAIN_LIMIT, or takes a hop; it changes no
record, and beside the walker only the cache entry that the probe's hop check removes. -/
def Obligations.WalkRefusesOrHops : Prop :=
  ∀ (i : Instr) (s s1 : State) (k : Look), Reads i s k s1 →
    (s.record k.current.slot = .worn →
      exec i s = .next (walkEnds k.walker s1 (refusal .worn k.hops false) none))
    ∧ (Stale k.current (s.record k.current.slot) →
        exec i s = .next (walkEnds k.walker s1
          (refusal (if k.hops = 0 then .stale else .dangling) k.hops false) none))
    ∧ (∀ c target, s.record k.current.slot = .forwarded k.current.gen c target →
        (k.limit ≤ k.hops →
          exec i s = .next (walkEnds k.walker s1 (refusal .chainLimit k.hops false) none))
        ∧ (k.hops < k.limit →
          exec i s = .next (walkGoesOn k.walker s1 k.req
            { snapshot := k.snapshot, limit := k.limit
              reading := k.reading.getD ⟨k.current.gen, target⟩
              current := target, hops := k.hops + 1 })))

/-- A LOOKUP at a LIVE final record is refused DOMAIN, RIGHTS or BOUNDS or resolves at base plus offset;
either way it fills the cache under the conditions of R50, and calls for its shortcut access under those
of R72. -/
def Obligations.LookupAtALiveRecord : Prop :=
  ∀ (i : Instr) (s s1 : State) (k : Look) (o : Object), Reads i s k s1 →
    s.record k.current.slot = .live k.current.gen o → k.req.kind ≠ .lookupPin →
    (∀ out, finalFailure k.req o.ext = some out →
      exec i s = .next (walkEnds k.walker { s1 with cache := filledCache s1 k o.ext }
        (refusal out k.hops false) (shortcutOf s k)))
    ∧ (finalFailure k.req o.ext = none →
      exec i s = .next (walkEnds k.walker { s1 with cache := filledCache s1 k o.ext }
        (success k.req o.ext k.current k.hops false) (shortcutOf s k)))

/-- A LOOKUP_PIN at a LIVE final record that passes the checks takes a pin in the same access, or is
answered PIN_LIMIT at 255 without a fill (R68). -/
def Obligations.LookupPinAtALiveRecord : Prop :=
  ∀ (i : Instr) (s s1 : State) (k : Look) (o : Object), Reads i s k s1 →
    s.record k.current.slot = .live k.current.gen o → k.req.kind = .lookupPin →
    (∀ out, finalFailure k.req o.ext = some out →
      exec i s = .next (walkEnds k.walker { s1 with cache := filledCache s1 k o.ext }
        (refusal out k.hops false) (shortcutOf s k)))
    ∧ (finalFailure k.req o.ext = none → o.pins = 255#8 →
      exec i s = .next (walkEnds k.walker s1 (refusal .pinLimit k.hops false) (shortcutOf s k)))
    ∧ (finalFailure k.req o.ext = none → o.pins ≠ 255#8 → ∃ t, exec i s = .next t
        ∧ t.record k.current.slot = .live k.current.gen { o with pins := o.pins + 1#8 }
        ∧ RecordsAgreeBut s t k.current.slot
        ∧ t = walkEnds k.walker { s1 with cache := filledCache s1 k o.ext, records := t.records }
                (success k.req o.ext k.current k.hops false) (shortcutOf s k))

/-- At a MOVING final record: the checks of R66; then a READ LOOKUP resolves at the old base, and a WRITE
or a LOOKUP_PIN is parked where a walk engine finds room, and is otherwise answered MOVING. Nothing is
filled (R67, R78, R108, R111). -/
def Obligations.WalkAtAMovingRecord : Prop :=
  ∀ (i : Instr) (s s1 : State) (k : Look) (o : Object), Reads i s k s1 →
    s.record k.current.slot = .moving k.current.gen o →
    (∀ out, finalFailure k.req o.ext = some out →
      exec i s = .next (walkEnds k.walker s1 (refusal out k.hops false) (shortcutOf s k)))
    ∧ (finalFailure k.req o.ext = none → k.req.access ≠ .write → k.req.kind ≠ .lookupPin →
      exec i s = .next (walkEnds k.walker s1 (success k.req o.ext k.current k.hops false)
        (shortcutOf s k)))
    ∧ (finalFailure k.req o.ext = none → (k.req.access = .write ∨ k.req.kind = .lookupPin) →
        (k.walker = .commandUnit ∨ 8 ≤ s.parkList.length + s.releaseQueue.length →
          exec i s = .next (walkEnds k.walker s1 (refusal .moving k.hops false) (shortcutOf s k)))
        ∧ (∀ e, k.walker = .engine e → s.parkList.length + s.releaseQueue.length < 8 →
          exec i s = .next (walkParks e s1 k.current.slot (shortcutOf s k))))

/-- R73: the shortcut access rewrites the origin's forward target to the walk's final handle when all
four guards hold, and otherwise changes no record. The window's LOOKUP then completes with the results it
had decided; a walk engine becomes IDLE. -/
def Obligations.ShortcutRewritesTheOrigin : Prop :=
  ∀ (s : State) (w : Walker) (c : Shortcut), s.granted = some (walkerClient w) →
    (match w with
      | .commandUnit => ∃ args x, s.cmd = some ⟨.lookup, args, .walkShortcut c x⟩
      | .engine e => s.engine e = .shortcut c) →
    ∃ t, exec (.shortcutAccess w) s = .next t ∧ RecordsAgreeBut s t c.slot
      ∧ (∀ cls, s.record c.slot = .forwarded c.reading.gen cls c.reading.target →
          s.epoch = c.snapshot → t.record c.slot = .forwarded c.reading.gen cls c.final)
      ∧ ((s.epoch ≠ c.snapshot
            ∨ ∀ cls, s.record c.slot ≠ .forwarded c.reading.gen cls c.reading.target) →
          t.record c.slot = s.record c.slot)
      ∧ (∀ args x, w = .commandUnit → s.cmd = some ⟨.lookup, args, .walkShortcut c x⟩ →
          t = served { s with records := t.records } 0x10#8 x.outcome x.address x.final
                (lookupWord x))
      ∧ ∀ e, w = .engine e → t = engineRests { s with records := t.records } e none

/-- An IDLE walk engine, Walk Engine A before B, takes the head of the Release Queue, or else of the
Lookup Queue. A malformed request is answered at once; any other waits for its first access (R80,
R141). That WALK_TAKE with no IDLE engine or no request changes nothing is the model's choice (log 2), and
so is which engine is next after a MALFORMED take (log 18). -/
def Obligations.EnginesTakeReleasedRequestsFirst : Prop :=
  ∀ s : State, s.phase = .running →
    ((s.engineA ≠ .idle ∧ s.engineB ≠ .idle) ∨ (s.releaseQueue = [] ∧ s.lookupQueue = []) →
      exec .walkTake s = .next s)
    ∧ ∀ (e : EngineId) (r : LinkRequest) (s1 : State),
      (e = .a ∧ s.engineA = .idle) ∨ (e = .b ∧ s.engineA ≠ .idle ∧ s.engineB = .idle) →
      (∃ rest, s.releaseQueue = r :: rest ∧ s1 = { s with releaseQueue := rest })
        ∨ (∃ rest, s.releaseQueue = [] ∧ s.lookupQueue = r :: rest
            ∧ s1 = { s with lookupQueue := rest }) →
      r.req.offset < 16777216 →
      (LinkMalformed r.req → exec .walkTake s =
        .next { s1 with responses := s.responses ++ [⟨r.port, r.tag, refusal .malformed 0 false⟩] })
      ∧ (¬ LinkMalformed r.req → r.req.kind = .unpin →
        exec .walkTake s = .next (s1.setEngine e (.unpinning r)))
      ∧ (¬ LinkMalformed r.req → r.req.kind ≠ .unpin →
        exec .walkTake s = .next (s1.setEngine e (.opening r)))

/-- R143: the one access of a link UNPIN, by its five checks in order; a pass lowers the pin count by
one. The response carries no address, no handle and no hops. -/
def Obligations.LinkUnpinLowersThePinCount : Prop :=
  ∀ (s : State) (e : EngineId) (q : LinkRequest) (h : Handle),
    s.granted = some (walkerClient (.engine e)) → s.engine e = .unpinning q →
    h = ⟨(q.req.origin.extractLsb' 8 12).toNat, q.req.origin.extractLsb' 0 8⟩ →
    ((∃ g, s.record h.slot = .free g) ∨ (s.record h.slot).gen ≠ h.gen →
      exec (.linkUnpinAccess e) s = .next (walkEnds (.engine e) s (refusal .stale 0 false) none))
    ∧ (s.record h.slot = .worn → h.gen = 255#8 →
      exec (.linkUnpinAccess e) s = .next (walkEnds (.engine e) s (refusal .worn 0 false) none))
    ∧ ((∃ o, s.record h.slot = .moving h.gen o)
          ∨ (∃ c target, s.record h.slot = .forwarded h.gen c target) →
      exec (.linkUnpinAccess e) s = .next (walkEnds (.engine e) s (refusal .notLive 0 false) none))
    ∧ ∀ o, s.record h.slot = .live h.gen o →
      (q.req.domain ≠ o.ext.domain → o.ext.shared = false →
        exec (.linkUnpinAccess e) s = .next (walkEnds (.engine e) s (refusal .domain 0 false) none))
      ∧ (q.req.domain = o.ext.domain ∨ o.ext.shared = true → o.pins = 0#8 →
        exec (.linkUnpinAccess e) s =
          .next (walkEnds (.engine e) s (refusal .unpinUnderflow 0 false) none))
      ∧ (q.req.domain = o.ext.domain ∨ o.ext.shared = true → o.pins ≠ 0#8 →
        ∃ t, exec (.linkUnpinAccess e) s = .next t
          ∧ t.record h.slot = .live h.gen { o with pins := o.pins - 1#8 }
          ∧ RecordsAgreeBut s t h.slot
          ∧ t = walkEnds (.engine e) { s with records := t.records } (refusal .done 0 false) none)

/-! ### Forwarding (chapter 5) -/

/-- R86: FORWARD at acceptance tests `from`, then `to`, then the two slots. -/
def Obligations.ForwardTestsItsArguments : Prop :=
  ∀ s : State, Accepting s →
    FormTested .forward 0x11#8 s
    ∧ ∀ source, Spells s.args.at0 source →
      (Malformed s.args.at1 ∨ Null s.args.at1 →
        exec .forward s = .next (completed s 0x11#8 .badArgument 0#32 0#32 0#32))
      ∧ ∀ target, Spells s.args.at1 target →
        (target.slot = source.slot →
          exec .forward s = .next (completed s 0x11#8 .cycle s.args.at1 1#32 0#32))
        ∧ (target.slot ≠ source.slot →
          exec .forward s = .next (accepted s .forward (.fromCheck source target)))

/-- R88: the from access refuses a WORN, STALE, MOVING or pinned `from`, and otherwise takes the epoch
snapshot and enters CHECK_WALK with H = `to` and k = 1. It writes nothing. -/
def Obligations.FromAccessChecksTheSource : Prop :=
  ∀ (s : State) (args : Quad Word) (source target : Handle),
    ServesPhase s .forward args (.fromCheck source target) →
    (s.record source.slot = .worn →
      exec .fromAccess s = .next (served s 0x11#8 .worn 0#32 0#32 0#32))
    ∧ (Stale source (s.record source.slot) →
      exec .fromAccess s = .next (served s 0x11#8 .stale 0#32 0#32 0#32))
    ∧ (∀ o, s.record source.slot = .moving source.gen o →
      exec .fromAccess s = .next (served s 0x11#8 .moving 0#32 0#32 0#32))
    ∧ (∀ o, s.record source.slot = .live source.gen o → o.pins ≠ 0#8 →
      exec .fromAccess s = .next (served s 0x11#8 .pinned 0#32 0#32 0#32))
    ∧ ((∃ o, s.record source.slot = .live source.gen o ∧ o.pins = 0#8)
          ∨ (∃ c old, s.record source.slot = .forwarded source.gen c old) →
      exec .fromAccess s = .next
        { s with lastGranted := .commandUnit
                 cmd := some ⟨.forward, args, .checkWalk source target s.epoch target 1⟩ })

/-- R89: one access of the check walk, by its six checks in order. It reads only. -/
def Obligations.CheckWalkFollowsTheChain : Prop :=
  ∀ (s : State) (args : Quad Word) (source target h : Handle) (snapshot : BitVec 16) (k : Nat),
    ServesPhase s .forward args (.checkWalk source target snapshot h k) → k ≤ 15 →
    (s.record h.slot = .worn → exec .checkWalkAccess s =
      .next (served s 0x11#8 .worn (handleWord h) (BitVec.ofNat 32 k) 0#32))
    ∧ (Stale h (s.record h.slot) → exec .checkWalkAccess s =
      .next (served s 0x11#8 .dangling (handleWord h) (BitVec.ofNat 32 k) 0#32))
    ∧ (s.record h.slot ≠ .worn → ¬ Stale h (s.record h.slot) →
      (h.slot = source.slot → (s.record h.slot).gen = source.gen → exec .checkWalkAccess s =
        .next (served s 0x11#8 .cycle (handleWord h) (BitVec.ofNat 32 k) 0#32))
      ∧ (¬ (h.slot = source.slot ∧ (s.record h.slot).gen = source.gen) →
        (∀ g c onward, s.record h.slot = .forwarded g c onward →
          (k = 15 → exec .checkWalkAccess s =
            .next (served s 0x11#8 .deep (handleWord h) 15#32 0#32))
          ∧ (k < 15 → exec .checkWalkAccess s = .next
            { s with lastGranted := .commandUnit
                     cmd := some ⟨.forward, args,
                       .checkWalk source target snapshot onward (k + 1)⟩ }))
        ∧ ((s.record h.slot).object ≠ none → exec .checkWalkAccess s = .next
            { s with lastGranted := .commandUnit
                     cmd := some ⟨.forward, args, .final source target snapshot h k⟩ })))

/-- R92, R93: the final access is CONTENDED, and writes nothing, unless the epoch is the snapshot and
`from` is still LIVE with pin count 0 or FORWARDED at its generation. Otherwise `from` becomes a forwarder
to `to`, keeping its generation and class, and the epoch's increment empties the cache. -/
def Obligations.ForwardFinalAccessWritesOrIsContended : Prop :=
  ∀ (s : State) (args : Quad Word) (source target h : Handle) (snapshot : BitVec 16) (k : Nat),
    ServesPhase s .forward args (.final source target snapshot h k) →
    (s.epoch ≠ snapshot ∨ (s.record source.slot).gen ≠ source.gen
        ∨ ¬ ((∃ g o, s.record source.slot = .live g o ∧ o.pins = 0#8)
              ∨ ∃ g c old, s.record source.slot = .forwarded g c old) →
      exec .forwardFinalAccess s = .next (served s 0x11#8 .contended 0#32 0#32 0#32))
    ∧ ∀ cls, s.epoch = snapshot →
      ((∃ o, s.record source.slot = .live source.gen o ∧ o.pins = 0#8 ∧ o.cls = cls)
        ∨ ∃ old, s.record source.slot = .forwarded source.gen cls old) →
      ∃ t, exec .forwardFinalAccess s = .next t
        ∧ t.record source.slot = .forwarded source.gen cls target ∧ RecordsAgreeBut s t source.slot
        ∧ t = served { s with records := t.records, cache := [], epoch := s.epoch + 1#16 } 0x11#8 .done
                (handleWord h) (BitVec.ofNat 32 k) (0#16 ++ (s.epoch + 1#16))

/-! ### Relocation (chapter 6) -/

/-- MOVE_BEGIN: its acceptance tests (R105), the eight checks of its access in order (R106), and the
opening of the move in the lowest-numbered IDLE entry (R107). -/
def Obligations.MoveBeginOpensAMove : Prop :=
  (∀ s : State, Accepting s →
    FormTested .moveBegin 0x18#8 s
    ∧ (¬ Malformed s.args.at0 → ¬ Null s.args.at0 →
        (s.args.at1.toNat % 16 ≠ 0 →
          exec .moveBegin s = .next (completed s 0x18#8 .badArgument 0#32 0#32 0#32))
        ∧ (s.args.at1.toNat % 16 = 0 →
          exec .moveBegin s = .next (accepted s .moveBegin .single))))
  ∧ ∀ (s : State) (args : Quad Word) (h : Handle), ServesHandle s .moveBegin args h →
    (s.record h.slot = .worn →
      exec .moveBeginAccess s = .next (served s 0x18#8 .worn 0#32 0#32 0#32))
    ∧ (Stale h (s.record h.slot) →
      exec .moveBeginAccess s = .next (served s 0x18#8 .stale 0#32 0#32 0#32))
    ∧ (∀ o, s.record h.slot = .moving h.gen o →
      exec .moveBeginAccess s = .next (served s 0x18#8 .moving 0#32 0#32 0#32))
    ∧ (∀ c target, s.record h.slot = .forwarded h.gen c target →
      exec .moveBeginAccess s = .next (served s 0x18#8 .notLive 0#32 0#32 0#32))
    ∧ ∀ o, s.record h.slot = .live h.gen o →
      (o.pins ≠ 0#8 → exec .moveBeginAccess s = .next (served s 0x18#8 .pinned 0#32 0#32 0#32))
      ∧ (o.pins = 0#8 → 4294967296 < args.at1.toNat + o.ext.length →
        exec .moveBeginAccess s = .next (served s 0x18#8 .badArgument 0#32 0#32 0#32))
      ∧ (o.pins = 0#8 → args.at1.toNat + o.ext.length ≤ 4294967296 →
        (∃ i, s.moves.get i = .lapsed h.slot) →
        exec .moveBeginAccess s = .next (served s 0x18#8 .lapsed 0#32 0#32 0#32))
      ∧ (o.pins = 0#8 → args.at1.toNat + o.ext.length ≤ 4294967296 →
        (∀ i, s.moves.get i ≠ .lapsed h.slot) →
        ((∀ i, s.moves.get i ≠ .idle) →
          exec .moveBeginAccess s = .next (served s 0x18#8 .moveTableFull 0#32 0#32 0#32))
        ∧ ∀ i, s.moves.get i = .idle → (∀ j, j < i → s.moves.get j ≠ .idle) →
          ∃ t, exec .moveBeginAccess s = .next t
            ∧ t.record h.slot = .moving h.gen o ∧ RecordsAgreeBut s t h.slot
            ∧ t = served { s with
                    records := t.records
                    moves := s.moves.set i (.copying h.slot args.at1 s.config.moveWindow)
                    cache := withoutFinal s.cache h.slot } 0x18#8 .done o.ext.base
                    (BitVec.ofNat 32 o.ext.length) (BitVec.ofNat 32 s.config.moveWindow))

/-- R112: MOVE_COMMIT and MOVE_ABORT by the case table: the acknowledgement of a lapse, the refusals, and
the end of the move at the new or the old base, with the release of the requests parked on the slot. -/
def Obligations.CommitAndAbortEndAMove : Prop :=
  ∀ (s : State) (args : Quad Word) (h : Handle) (commit : Bool) (i : Instr) (k : Cmd) (c : BitVec 8),
    (commit = true ∧ i = .moveCommitAccess ∧ k = .moveCommit ∧ c = 0x19#8)
      ∨ (commit = false ∧ i = .moveAbortAccess ∧ k = .moveAbort ∧ c = 0x1A#8) →
    ServesHandle s k args h →
    ((∀ j, (s.moves.get j).names h.slot = false) →
      (s.record h.slot = .worn → exec i s = .next (served s c .worn 0#32 0#32 0#32))
      ∧ (Stale h (s.record h.slot) → exec i s = .next (served s c .stale 0#32 0#32 0#32))
      ∧ (s.record h.slot ≠ .worn → ¬ Stale h (s.record h.slot) →
          exec i s = .next (served s c .notMoving 0#32 0#32 0#32)))
    ∧ ∀ j, NamedBy s h.slot j →
      (s.moves.get j = .lapsed h.slot →
        exec i s = .next (served { s with moves := s.moves.set j .idle } c .lapsed 0#32 0#32 0#32))
      ∧ ∀ newBase remaining, s.moves.get j = .copying h.slot newBase remaining →
        ((s.record h.slot).gen ≠ h.gen → exec i s = .next (served s c .stale 0#32 0#32 0#32))
        ∧ ∀ o base, s.record h.slot = .moving h.gen o →
          base = (if commit then newBase else o.ext.base) →
          ∃ t, exec i s = .next t
            ∧ t.record h.slot = .live h.gen { o with ext := { o.ext with base := base } }
            ∧ RecordsAgreeBut s t h.slot
            ∧ t = served { released s h.slot with
                    records := t.records, moves := s.moves.set j .idle } c .done base
                    (BitVec.ofNat 32 (releasedCount s h.slot)) (BitVec.ofNat 32 remaining)

/-- A tick lowers every COPYING count above 0 by one, begins the next interval under the TICK_DIV of now,
and notes the entries that reach 0 and have no expiry noted or pending; the expiry event records the
oldest of them as pending unless one is recorded for it already. The Move Timer waits from the tick on
(R102, R103). The two steps and the list between them are the model's (log 6), as are that a tick is taken
at any count of the cycle counter (log 5) and that EXPIRY with nothing noted changes nothing (log 2). -/
def Obligations.TicksCountDownAndExpire : Prop :=
  ∀ s : State, s.phase = .running →
    (∃ t, exec .tick s = .next t
      ∧ (∀ i n b k, s.moves.get i = .copying n b (k + 1) → t.moves.get i = .copying n b k)
      ∧ (∀ i n b, s.moves.get i = .copying n b 0 → t.moves.get i = .copying n b 0)
      ∧ (∀ i, s.moves.get i = .idle → t.moves.get i = .idle)
      ∧ (∀ i n, s.moves.get i = .lapsed n → t.moves.get i = .lapsed n)
      ∧ t = { s with cycles := 0, interval := s.config.tickDiv, moves := t.moves
                     expired := s.expired ++ [(0 : Fin 4), 1, 2, 3].filter
                       (fun i => (match s.moves.get i with | .copying _ _ 1 => true | _ => false)
                         && !decide (i ∈ s.expired ∨ i ∈ s.pendingExpiries)) }
      ∧ ∀ i n b, s.moves.get i = .copying n b 1 → t.waiting .moveTimer = true)
    ∧ (∀ i rest, s.expired = i :: rest → exec .expiry s = .next
        { s with expired := rest
                 pendingExpiries := if i ∈ s.pendingExpiries then s.pendingExpiries
                   else s.pendingExpiries ++ [i] })
    ∧ (s.expired = [] → exec .expiry s = .next s)

/-- The expiry access of the oldest recorded expiry (R103) lapses a COPYING entry whose count is 0: the
record is LIVE again at its old base, the entry LAPSED, the parked requests released, MOVE_LAPSED raised.
In any other case it changes nothing (R115). Either way that expiry is removed (R103). That the recorded
expiries stand in two lists, that a noted one is served before its EXPIRY, and that the access leaves those
behind it pending, the list of the noted ones empty, are the model's choices (log 6) and no words of R103
or R115. -/
def Obligations.ExpiryAccessLapsesAMove : Prop :=
  ∀ (s : State) (i : Fin 4) (rest : List (Fin 4)), s.pendingExpiries ++ s.expired = i :: rest →
    s.granted = some .moveTimer →
    (∀ n b g o, s.moves.get i = .copying n b 0 → s.record n = .moving g o →
      ∃ t, exec .expiryAccess s = .next t ∧ t.record n = .live g o ∧ RecordsAgreeBut s t n
        ∧ t = { released s n with
                lastGranted := .moveTimer, pendingExpiries := rest, expired := [], records := t.records
                moves := s.moves.set i (.lapsed n), events := s.events ||| 0b000100#6 })
    ∧ ((∀ n b, s.moves.get i ≠ .copying n b 0) →
      exec .expiryAccess s =
        .next { s with lastGranted := .moveTimer, pendingExpiries := rest, expired := [] })

/-! ### Sweeps (chapter 7) -/

/-- SWEEP_START: its five tests in order (R122), and the start of the sweep (R123), with no access. -/
def Obligations.SweepStartLatchesTheSelection : Prop :=
  ∀ (s : State) (first last : Nat) (action : BitVec 2), Accepting s →
    first = (s.args.at0.extractLsb' 0 13).toNat → last = (s.args.at0.extractLsb' 16 13).toNat →
    action = s.args.at1.extractLsb' 8 2 →
    (s.sweep.state ≠ .idle →
      exec .sweepStart s = .next (completed s 0x20#8 .busy 0#32 0#32 0#32))
    ∧ (s.sweep.state = .idle →
      (first = 0 ∨ 4095 < first ∨ last = 0 ∨ 4095 < last ∨ last < first ∨ action = 3#2
          ∨ (action ≠ 0#2 ∧ (s.args.at1.getLsbD 0 = true ∨ s.args.at1.getLsbD 4 = true)) →
        exec .sweepStart s = .next (completed s 0x20#8 .badArgument 0#32 0#32 0#32))
      ∧ (1 ≤ first → first ≤ last → last ≤ 4095 → action ≠ 3#2 →
          (action = 0#2 ∨ (s.args.at1.getLsbD 0 = false ∧ s.args.at1.getLsbD 4 = false)) →
        exec .sweepStart s = .next (completed
          { s with sweep :=
            { state := .running, cursor := first, matched := 0, acted := 0, skipped := 0
              endKind := .none
              sel :=
                { startSlot := first, endSlot := last, states := s.args.at1.extractLsb' 0 5
                  action := if action = 0#2 then .count else if action = 1#2 then .retire else .retag
                  newClass := s.args.at1.extractLsb' 16 8
                  pattern := ⟨s.args.at2.extractLsb' 0 8, s.args.at2.extractLsb' 8 4,
                    s.args.at2.getLsbD 12⟩
                  care := ⟨s.args.at3.extractLsb' 0 8, s.args.at3.extractLsb' 8 4,
                    s.args.at3.getLsbD 12⟩ } } }
          0x20#8 .done (BitVec.ofNat 32 (last - first + 1)) 0#32 0#32)))

/-- R130: SWEEP_STOP completes at once: RUNNING becomes STOPPING, STOPPING stays, IDLE is answered
NOT_RUNNING. -/
def Obligations.SweepStopAsksForTheEnd : Prop :=
  ∀ s : State, Accepting s →
    (s.sweep.state = .running → exec .sweepStop s = .next (completed
      { s with sweep := { s.sweep with state := .stopping } } 0x21#8 .done 0#32 0#32 0#32))
    ∧ (s.sweep.state = .stopping →
      exec .sweepStop s = .next (completed s 0x21#8 .done 0#32 0#32 0#32))
    ∧ (s.sweep.state = .idle →
      exec .sweepStop s = .next (completed s 0x21#8 .notRunning 0#32 0#32 0#32))

/-- A visit judges the record at the cursor by the match rule, applies COUNT, RETIRE or RETAG to a match
with its counters, raises the cursor, and ends the sweep at the range's end or when STOPPING (R125 to
R128, R131). -/
def Obligations.VisitActsOnTheRecordAtTheCursor : Prop :=
  ∀ (s : State) (n m a k : Nat), s.granted = some .sweepUnit → n = s.sweep.cursor →
    m = s.sweep.matched → a = s.sweep.acted → k = s.sweep.skipped →
    (¬ Matches s.sweep.sel (s.record n) → exec .sweepVisit s = .next (visited s m a k))
    ∧ (Matches s.sweep.sel (s.record n) →
      (s.sweep.sel.action = .count → exec .sweepVisit s = .next (visited s (m + 1) a k))
      ∧ (s.sweep.sel.action = .retire →
        ((∃ g o, s.record n = .moving g o) ∨ (∃ g o, s.record n = .live g o ∧ o.pins ≠ 0#8) →
          exec .sweepVisit s = .next (visited s (m + 1) a (k + 1)))
        ∧ ((∃ g o, s.record n = .live g o ∧ o.pins = 0#8)
              ∨ (∃ g c target, s.record n = .forwarded g c target) →
          ∃ t, exec .sweepVisit s = .next t ∧ t.record n = spent (s.record n).gen
            ∧ RecordsAgreeBut s t n
            ∧ t = visited { afterRetire s n with records := t.records } (m + 1) (a + 1) k))
      ∧ (s.sweep.sel.action = .retag → ∃ t, exec .sweepVisit s = .next t
        ∧ (∀ g o, s.record n = .live g o →
            t.record n = .live g { o with cls := s.sweep.sel.newClass })
        ∧ (∀ g o, s.record n = .moving g o →
            t.record n = .moving g { o with cls := s.sweep.sel.newClass })
        ∧ (∀ g c target, s.record n = .forwarded g c target →
            t.record n = .forwarded g s.sweep.sel.newClass target)
        ∧ RecordsAgreeBut s t n
        ∧ t = visited { s with records := t.records } (m + 1) (a + 1) k))

/-! ### The Lookup Link (chapter 8) -/

/-- R138: the acknowledge of a request by its three tests in order; an accepted one takes a credit, adds
its tag, and joins the Lookup Queue with its fields (Table 8-1) and the domain of its port. The kept
acknowledge is the model's view of ACKp (log 9). -/
def Obligations.RequestsAreAcknowledgedInOrder : Prop :=
  ∀ (s : State) (p : Fin 4) (w0 w1 w2 : Word) (tag : BitVec 4), s.phase = .running →
    tag = w0.extractLsb' 4 4 →
    (s.gate ≠ .opened → exec (.linkRequest p w0 w1 w2) s =
      .next { s with acks := s.acks.set p (some .closed) })
    ∧ (s.gate = .opened →
      ((s.ports.get p).credits = 0 → exec (.linkRequest p w0 w1 w2) s =
        .next { s with acks := s.acks.set p (some .noCredit) })
      ∧ ((s.ports.get p).credits ≠ 0 →
        (tag ∈ (s.ports.get p).tags → exec (.linkRequest p w0 w1 w2) s =
          .next { s with acks := s.acks.set p (some .dupTag) })
        ∧ (tag ∉ (s.ports.get p).tags →
          ∃ r : LinkRequest, r.port = p ∧ r.tag = tag ∧ r.req.origin = w1
            ∧ r.req.offset = (w2.extractLsb' 0 24).toNat ∧ r.req.size = (w0.extractLsb' 16 9).toNat
            ∧ (r.req.access = .read ↔ w0.extractLsb' 8 2 = 0#2)
            ∧ (r.req.access = .write ↔ w0.extractLsb' 8 2 = 1#2)
            ∧ (r.req.kind = .lookup ↔ w0.extractLsb' 0 2 = 0#2)
            ∧ (r.req.kind = .lookupPin ↔ w0.extractLsb' 0 2 = 1#2)
            ∧ (r.req.kind = .unpin ↔ w0.extractLsb' 0 2 = 2#2)
            ∧ r.req.domain = s.portDomains.get p
            ∧ exec (.linkRequest p w0 w1 w2) s = .next
                { s with
                  acks := s.acks.set p (some .accepted)
                  ports := s.ports.set p
                    ⟨(s.ports.get p).credits - 1, (s.ports.get p).tags ++ [tag]⟩
                  lookupQueue := s.lookupQueue ++ [r] })))

/-- The acceptance of the head response returns its credit and its tag and tests the drain condition (R145);
with no response nothing happens, which is the model's choice (log 2). -/
def Obligations.AcceptedResponseReturnsCreditAndTag : Prop :=
  ∀ s : State, s.phase = .running →
    (∀ r rest, s.responses = r :: rest → exec .responseAccept s = .next (drainTested
      { s with
        responses := rest
        ports := s.ports.set r.port
          ⟨(s.ports.get r.port).credits + 1, (s.ports.get r.port).tags.erase r.tag⟩ }))
    ∧ (s.responses = [] → exec .responseAccept s = .next s)

/-- LINK_OPEN opens the gate from any state and cancels a drain; LINK_CLOSE starts a drain from OPEN and
tests its condition at once, reports the link in-flight count, and otherwise changes no gate (R147,
R148). -/
def Obligations.LinkCommandsMoveTheGate : Prop :=
  ∀ (s : State) (inFlight : Nat), Accepting s →
    inFlight = s.ports.at0.tags.length + s.ports.at1.tags.length + s.ports.at2.tags.length
      + s.ports.at3.tags.length →
    exec .linkOpen s = .next (completed { s with gate := .opened } 0x28#8 .done 0#32 0#32 0#32)
    ∧ (s.gate = .opened → exec .linkClose s = .next (completed
        (drainTested { s with gate := .draining }) 0x29#8 .done (BitVec.ofNat 32 inFlight) 0#32 0#32))
    ∧ (s.gate ≠ .opened → exec .linkClose s = .next (completed s 0x29#8 .done
        (BitVec.ofNat 32 inFlight) 0#32 0#32))

/-- SET_PORT_DOMAIN writes one port's entry and reports the old domain, or is refused BAD_ARGUMENT on a
port above 3 or a domain outside 1..15 (R146). -/
def Obligations.SetPortDomainWritesOneEntry : Prop :=
  ∀ s : State, Accepting s →
    (3 < s.args.at0.toNat ∨ s.args.at1.toNat = 0 ∨ 15 < s.args.at1.toNat →
      exec .setPortDomain s = .next (completed s 0x2A#8 .badArgument 0#32 0#32 0#32))
    ∧ ∀ p : Fin 4, s.args.at0.toNat = p.val → 1 ≤ s.args.at1.toNat → s.args.at1.toNat ≤ 15 →
      exec .setPortDomain s = .next (completed
        { s with portDomains := s.portDomains.set p (BitVec.ofNat 4 s.args.at1.toNat) } 0x2A#8 .done
        (BitVec.ofNat 32 (s.portDomains.get p).toNat) 0#32 0#32)

/-! ### Configuration (chapter 9) -/

/-- SET_CONFIG writes one field within its range and reports its old value, at acceptance, and for
CACHE_EN in its one access, which empties the cache when it writes clear; READ_CONFIG reads a field
(R163, R54, R164). -/
def Obligations.ConfigFieldsAreWrittenAndRead : Prop :=
  (∀ (s : State) (f v : Nat), Accepting s → f = s.args.at0.toNat → v = s.args.at1.toNat →
    (fieldRange f = none →
      exec .setConfig s = .next (completed s 0x30#8 .badArgument 0#32 0#32 0#32)
      ∧ exec .readConfig s = .next (completed s 0x31#8 .badArgument 0#32 0#32 0#32))
    ∧ ∀ lo hi, fieldRange f = some (lo, hi) →
      exec .readConfig s = .next
        (completed s 0x31#8 .done (BitVec.ofNat 32 (fieldValue s.config f)) 0#32 0#32)
      ∧ (v < lo ∨ hi < v →
          exec .setConfig s = .next (completed s 0x30#8 .badArgument 0#32 0#32 0#32))
      ∧ (lo ≤ v → v ≤ hi → f = 2 → exec .setConfig s = .next (accepted s .setConfig .single))
      ∧ (lo ≤ v → v ≤ hi → f ≠ 2 → ∃ t, exec .setConfig s = .next t
          ∧ fieldValue t.config f = v
          ∧ (∀ g, g ≠ f → fieldValue t.config g = fieldValue s.config g)
          ∧ t = completed { s with config := t.config } 0x30#8 .done
                  (BitVec.ofNat 32 (fieldValue s.config f)) 0#32 0#32))
  ∧ ∀ (s : State) (args : Quad Word), ServesSingle s .setConfig args →
    (args.at1 = 0#32 → exec .cacheEnAccess s = .next (served
      { s with config := { s.config with cacheEn := false }, cache := [] } 0x30#8 .done
      (BitVec.ofNat 32 (fieldValue s.config 2)) 0#32 0#32))
    ∧ (args.at1 = 1#32 → exec .cacheEnAccess s = .next (served
      { s with config := { s.config with cacheEn := true } } 0x30#8 .done
      (BitVec.ofNat 32 (fieldValue s.config 2)) 0#32 0#32))

/-! ### The laws, kept by every step -/

/-- Every law holds after power-on reset. -/
def Obligations.LawsHoldAtReset : Prop :=
  StoreLaw State.reset ∧ QueueLaw State.reset ∧ PinLaw State.reset ∧ MoveLaw State.reset
    ∧ ExtentLaw State.reset ∧ ParkLaw State.reset ∧ ParkCapacity State.reset ∧ CacheLaw State.reset
    ∧ SweepLaw State.reset ∧ LinkLaw State.reset ∧ ClosedLaw State.reset
    ∧ HopLaw State.reset ∧ SettingsLaw State.reset

/-- Every step keeps the Record Store's canonical form (log 16). -/
def Obligations.StepKeepsTheStoreCanonical : Prop :=
  ∀ s t : State, StoreLaw s → step s = .next t → StoreLaw t

/-- R19: the Free Slot Queue holds every FREE slot exactly once and no other, and the Worn Count is the
number of WORN slots. -/
def Obligations.StepKeepsTheFreeSlotQueueExact : Prop :=
  ∀ s t : State, QueueLaw s → step s = .next t → QueueLaw t

/-- R8: a record whose pin count is above 0 is LIVE, never MOVING. -/
def Obligations.StepKeepsMovingRecordsUnpinned : Prop :=
  ∀ s t : State, PinLaw s → step s = .next t → PinLaw t

/-- R12, R100: MOVING records and COPYING entries correspond, one entry a slot. -/
def Obligations.StepKeepsMovesAndRecordsMatched : Prop :=
  ∀ s t : State, QueueLaw s → MoveLaw s → step s = .next t → MoveLaw t

/-- R6: the three conditions on every extent. -/
def Obligations.StepKeepsExtentsLegal : Prop :=
  ∀ s t : State, QueueLaw s → MoveLaw s → ExtentLaw s → step s = .next t → ExtentLaw t

/-- R83, R110: every parked request waits on a MOVING record, and the Park List and the Release Queue
share eight places. -/
def Obligations.StepKeepsParkedRequestsOnMoves : Prop :=
  ∀ s t : State, QueueLaw s → MoveLaw s → ParkLaw s → ParkCapacity s → step s = .next t →
    ParkLaw t ∧ ParkCapacity t

/-- R44: every cache entry names a LIVE record with the entry's fields; at most 32 entries, one an
origin. -/
def Obligations.StepKeepsTheCacheTrue : Prop :=
  ∀ s t : State, QueueLaw s → CacheLaw s → step s = .next t → CacheLaw t

/-- R129: the sweep's counter laws, its cursor within the range, its counts within 0..4095. -/
def Obligations.StepKeepsTheSweepCounters : Prop :=
  ∀ s t : State, SweepLaw s → step s = .next t → SweepLaw t

/-- R136, R140: credits plus requests in flight make 4 on each port, and the tags in flight are exactly
those of the requests the part holds, each in one place, so that none is lost or answered twice. -/
def Obligations.StepKeepsEveryRequestHeldOnce : Prop :=
  ∀ s t : State, LinkLaw s → step s = .next t → LinkLaw t

/-- R64: no walk goes beyond the HOP_LIMIT it took, and no response reports more than 15 hops. -/
def Obligations.StepKeepsWalksWithinTheHopLimit : Prop :=
  ∀ s t : State, HopLaw s → step s = .next t → HopLaw t

/-- Table 9-7, R103, R146: configuration fields stay in range, each entry has at most one expiry noted or
pending (log 6), and no port holds domain 0. -/
def Obligations.StepKeepsTheSettingsInRange : Prop :=
  ∀ s t : State, SettingsLaw s → step s = .next t → SettingsLaw t

/-- R9, R29: a slot's generation falls at no event but a clear or a reset, and a WORN record stays
WORN. -/
def Obligations.GenerationsNeverFall : Prop :=
  ∀ (i : Instr) (s t : State) (n : Nat), clearsDirectory i = false → exec i s = .next t →
    (s.record n).gen.toNat ≤ (t.record n).gen.toNat
    ∧ (QueueLaw s → s.record n = .worn → t.record n = .worn)

/-- The gate leaves CLOSED by LINK_OPEN alone (R149), and every step keeps that while it is CLOSED no
request is in flight, in no place, and both walk engines are IDLE (R147, R149). -/
def Obligations.OnlyLinkOpenOpensTheGate : Prop :=
  (∀ (i : Instr) (s t : State), i.wellFormed = true → s.gate = .closed → exec i s = .next t →
    t.gate ≠ .closed → i = .linkOpen)
  ∧ ∀ s t : State, LinkLaw s → ClosedLaw s → step s = .next t → ClosedLaw t
end

