-- ==== Sys2Proof/Laws/State.lean ====
section
/-! SUPPORT. What each named update of the state leaves in each field: one lemma a field, true by
definition, so that no proof unfolds a record update. -/

namespace Sys2Proof.Machine

open Sys2Proof

/-! ### grant -/

@[simp] theorem State.grant_record (s : State) (c : Client) (slot : Nat) :
    (s.grant c).record slot = s.record slot := rfl
@[simp] theorem State.grant_pending (s : State) (c : Client) :
    (s.grant c).pending = s.pending := rfl
@[simp] theorem State.grant_phase (s : State) (c : Client) : (s.grant c).phase = s.phase := rfl
@[simp] theorem State.grant_records (s : State) (c : Client) :
    (s.grant c).records = s.records := rfl
@[simp] theorem State.grant_freeQueue (s : State) (c : Client) :
    (s.grant c).freeQueue = s.freeQueue := rfl
@[simp] theorem State.grant_wornCount (s : State) (c : Client) :
    (s.grant c).wornCount = s.wornCount := rfl
@[simp] theorem State.grant_lastGranted (s : State) (c : Client) :
    (s.grant c).lastGranted = c := rfl
@[simp] theorem State.grant_cache (s : State) (c : Client) : (s.grant c).cache = s.cache := rfl
@[simp] theorem State.grant_epoch (s : State) (c : Client) : (s.grant c).epoch = s.epoch := rfl
@[simp] theorem State.grant_cmd (s : State) (c : Client) : (s.grant c).cmd = s.cmd := rfl
@[simp] theorem State.grant_args (s : State) (c : Client) : (s.grant c).args = s.args := rfl
@[simp] theorem State.grant_results (s : State) (c : Client) :
    (s.grant c).results = s.results := rfl
@[simp] theorem State.grant_lastOutcome (s : State) (c : Client) :
    (s.grant c).lastOutcome = s.lastOutcome := rfl
@[simp] theorem State.grant_lastCommand (s : State) (c : Client) :
    (s.grant c).lastCommand = s.lastCommand := rfl
@[simp] theorem State.grant_events (s : State) (c : Client) : (s.grant c).events = s.events := rfl
@[simp] theorem State.grant_eventEnable (s : State) (c : Client) :
    (s.grant c).eventEnable = s.eventEnable := rfl
@[simp] theorem State.grant_config (s : State) (c : Client) : (s.grant c).config = s.config := rfl
@[simp] theorem State.grant_engineA (s : State) (c : Client) :
    (s.grant c).engineA = s.engineA := rfl
@[simp] theorem State.grant_engineB (s : State) (c : Client) :
    (s.grant c).engineB = s.engineB := rfl
@[simp] theorem State.grant_lookupQueue (s : State) (c : Client) :
    (s.grant c).lookupQueue = s.lookupQueue := rfl
@[simp] theorem State.grant_releaseQueue (s : State) (c : Client) :
    (s.grant c).releaseQueue = s.releaseQueue := rfl
@[simp] theorem State.grant_moves (s : State) (c : Client) : (s.grant c).moves = s.moves := rfl
@[simp] theorem State.grant_parkList (s : State) (c : Client) :
    (s.grant c).parkList = s.parkList := rfl
@[simp] theorem State.grant_cycles (s : State) (c : Client) : (s.grant c).cycles = s.cycles := rfl
@[simp] theorem State.grant_interval (s : State) (c : Client) :
    (s.grant c).interval = s.interval := rfl
@[simp] theorem State.grant_expired (s : State) (c : Client) :
    (s.grant c).expired = s.expired := rfl
@[simp] theorem State.grant_pendingExpiries (s : State) (c : Client) :
    (s.grant c).pendingExpiries = s.pendingExpiries := rfl
@[simp] theorem State.grant_sweep (s : State) (c : Client) : (s.grant c).sweep = s.sweep := rfl
@[simp] theorem State.grant_gate (s : State) (c : Client) : (s.grant c).gate = s.gate := rfl
@[simp] theorem State.grant_ports (s : State) (c : Client) : (s.grant c).ports = s.ports := rfl
@[simp] theorem State.grant_portDomains (s : State) (c : Client) :
    (s.grant c).portDomains = s.portDomains := rfl
@[simp] theorem State.grant_responses (s : State) (c : Client) :
    (s.grant c).responses = s.responses := rfl
@[simp] theorem State.grant_acks (s : State) (c : Client) : (s.grant c).acks = s.acks := rfl

/-! ### raise -/

@[simp] theorem State.raise_record (s : State) (e : Event) (slot : Nat) :
    (s.raise e).record slot = s.record slot := rfl
@[simp] theorem State.raise_pending (s : State) (e : Event) : (s.raise e).pending = s.pending := rfl
@[simp] theorem State.raise_phase (s : State) (e : Event) : (s.raise e).phase = s.phase := rfl
@[simp] theorem State.raise_records (s : State) (e : Event) : (s.raise e).records = s.records := rfl
@[simp] theorem State.raise_freeQueue (s : State) (e : Event) :
    (s.raise e).freeQueue = s.freeQueue := rfl
@[simp] theorem State.raise_wornCount (s : State) (e : Event) :
    (s.raise e).wornCount = s.wornCount := rfl
@[simp] theorem State.raise_lastGranted (s : State) (e : Event) :
    (s.raise e).lastGranted = s.lastGranted := rfl
@[simp] theorem State.raise_cache (s : State) (e : Event) : (s.raise e).cache = s.cache := rfl
@[simp] theorem State.raise_epoch (s : State) (e : Event) : (s.raise e).epoch = s.epoch := rfl
@[simp] theorem State.raise_cmd (s : State) (e : Event) : (s.raise e).cmd = s.cmd := rfl
@[simp] theorem State.raise_args (s : State) (e : Event) : (s.raise e).args = s.args := rfl
@[simp] theorem State.raise_results (s : State) (e : Event) : (s.raise e).results = s.results := rfl
@[simp] theorem State.raise_lastOutcome (s : State) (e : Event) :
    (s.raise e).lastOutcome = s.lastOutcome := rfl
@[simp] theorem State.raise_lastCommand (s : State) (e : Event) :
    (s.raise e).lastCommand = s.lastCommand := rfl
@[simp] theorem State.raise_events (s : State) (e : Event) :
    (s.raise e).events = raised s.events e := rfl
@[simp] theorem State.raise_eventEnable (s : State) (e : Event) :
    (s.raise e).eventEnable = s.eventEnable := rfl
@[simp] theorem State.raise_config (s : State) (e : Event) : (s.raise e).config = s.config := rfl
@[simp] theorem State.raise_engineA (s : State) (e : Event) : (s.raise e).engineA = s.engineA := rfl
@[simp] theorem State.raise_engineB (s : State) (e : Event) : (s.raise e).engineB = s.engineB := rfl
@[simp] theorem State.raise_lookupQueue (s : State) (e : Event) :
    (s.raise e).lookupQueue = s.lookupQueue := rfl
@[simp] theorem State.raise_releaseQueue (s : State) (e : Event) :
    (s.raise e).releaseQueue = s.releaseQueue := rfl
@[simp] theorem State.raise_moves (s : State) (e : Event) : (s.raise e).moves = s.moves := rfl
@[simp] theorem State.raise_parkList (s : State) (e : Event) :
    (s.raise e).parkList = s.parkList := rfl
@[simp] theorem State.raise_cycles (s : State) (e : Event) : (s.raise e).cycles = s.cycles := rfl
@[simp] theorem State.raise_interval (s : State) (e : Event) :
    (s.raise e).interval = s.interval := rfl
@[simp] theorem State.raise_expired (s : State) (e : Event) : (s.raise e).expired = s.expired := rfl
@[simp] theorem State.raise_pendingExpiries (s : State) (e : Event) :
    (s.raise e).pendingExpiries = s.pendingExpiries := rfl
@[simp] theorem State.raise_sweep (s : State) (e : Event) : (s.raise e).sweep = s.sweep := rfl
@[simp] theorem State.raise_gate (s : State) (e : Event) : (s.raise e).gate = s.gate := rfl
@[simp] theorem State.raise_ports (s : State) (e : Event) : (s.raise e).ports = s.ports := rfl
@[simp] theorem State.raise_portDomains (s : State) (e : Event) :
    (s.raise e).portDomains = s.portDomains := rfl
@[simp] theorem State.raise_responses (s : State) (e : Event) :
    (s.raise e).responses = s.responses := rfl
@[simp] theorem State.raise_acks (s : State) (e : Event) : (s.raise e).acks = s.acks := rfl

/-! ### setRecord -/

@[simp] theorem State.setRecord_pending (s : State) (n : Nat) (r : Record) :
    (s.setRecord n r).pending = s.pending := rfl
@[simp] theorem State.setRecord_phase (s : State) (n : Nat) (r : Record) :
    (s.setRecord n r).phase = s.phase := rfl
@[simp] theorem State.setRecord_records (s : State) (n : Nat) (r : Record) :
    (s.setRecord n r).records = putRecord s.records n r := rfl
@[simp] theorem State.setRecord_freeQueue (s : State) (n : Nat) (r : Record) :
    (s.setRecord n r).freeQueue = s.freeQueue := rfl
@[simp] theorem State.setRecord_wornCount (s : State) (n : Nat) (r : Record) :
    (s.setRecord n r).wornCount = s.wornCount := rfl
@[simp] theorem State.setRecord_lastGranted (s : State) (n : Nat) (r : Record) :
    (s.setRecord n r).lastGranted = s.lastGranted := rfl
@[simp] theorem State.setRecord_cache (s : State) (n : Nat) (r : Record) :
    (s.setRecord n r).cache = s.cache := rfl
@[simp] theorem State.setRecord_epoch (s : State) (n : Nat) (r : Record) :
    (s.setRecord n r).epoch = s.epoch := rfl
@[simp] theorem State.setRecord_cmd (s : State) (n : Nat) (r : Record) :
    (s.setRecord n r).cmd = s.cmd := rfl
@[simp] theorem State.setRecord_args (s : State) (n : Nat) (r : Record) :
    (s.setRecord n r).args = s.args := rfl
@[simp] theorem State.setRecord_results (s : State) (n : Nat) (r : Record) :
    (s.setRecord n r).results = s.results := rfl
@[simp] theorem State.setRecord_lastOutcome (s : State) (n : Nat) (r : Record) :
    (s.setRecord n r).lastOutcome = s.lastOutcome := rfl
@[simp] theorem State.setRecord_lastCommand (s : State) (n : Nat) (r : Record) :
    (s.setRecord n r).lastCommand = s.lastCommand := rfl
@[simp] theorem State.setRecord_events (s : State) (n : Nat) (r : Record) :
    (s.setRecord n r).events = s.events := rfl
@[simp] theorem State.setRecord_eventEnable (s : State) (n : Nat) (r : Record) :
    (s.setRecord n r).eventEnable = s.eventEnable := rfl
@[simp] theorem State.setRecord_config (s : State) (n : Nat) (r : Record) :
    (s.setRecord n r).config = s.config := rfl
@[simp] theorem State.setRecord_engineA (s : State) (n : Nat) (r : Record) :
    (s.setRecord n r).engineA = s.engineA := rfl
@[simp] theorem State.setRecord_engineB (s : State) (n : Nat) (r : Record) :
    (s.setRecord n r).engineB = s.engineB := rfl
@[simp] theorem State.setRecord_lookupQueue (s : State) (n : Nat) (r : Record) :
    (s.setRecord n r).lookupQueue = s.lookupQueue := rfl
@[simp] theorem State.setRecord_releaseQueue (s : State) (n : Nat) (r : Record) :
    (s.setRecord n r).releaseQueue = s.releaseQueue := rfl
@[simp] theorem State.setRecord_moves (s : State) (n : Nat) (r : Record) :
    (s.setRecord n r).moves = s.moves := rfl
@[simp] theorem State.setRecord_parkList (s : State) (n : Nat) (r : Record) :
    (s.setRecord n r).parkList = s.parkList := rfl
@[simp] theorem State.setRecord_cycles (s : State) (n : Nat) (r : Record) :
    (s.setRecord n r).cycles = s.cycles := rfl
@[simp] theorem State.setRecord_interval (s : State) (n : Nat) (r : Record) :
    (s.setRecord n r).interval = s.interval := rfl
@[simp] theorem State.setRecord_expired (s : State) (n : Nat) (r : Record) :
    (s.setRecord n r).expired = s.expired := rfl
@[simp] theorem State.setRecord_pendingExpiries (s : State) (n : Nat) (r : Record) :
    (s.setRecord n r).pendingExpiries = s.pendingExpiries := rfl
@[simp] theorem State.setRecord_sweep (s : State) (n : Nat) (r : Record) :
    (s.setRecord n r).sweep = s.sweep := rfl
@[simp] theorem State.setRecord_gate (s : State) (n : Nat) (r : Record) :
    (s.setRecord n r).gate = s.gate := rfl
@[simp] theorem State.setRecord_ports (s : State) (n : Nat) (r : Record) :
    (s.setRecord n r).ports = s.ports := rfl
@[simp] theorem State.setRecord_portDomains (s : State) (n : Nat) (r : Record) :
    (s.setRecord n r).portDomains = s.portDomains := rfl
@[simp] theorem State.setRecord_responses (s : State) (n : Nat) (r : Record) :
    (s.setRecord n r).responses = s.responses := rfl
@[simp] theorem State.setRecord_acks (s : State) (n : Nat) (r : Record) :
    (s.setRecord n r).acks = s.acks := rfl

/-! ### dropFinal -/

@[simp] theorem State.dropFinal_record (s : State) (n : Nat) (slot : Nat) :
    (s.dropFinal n).record slot = s.record slot := rfl
@[simp] theorem State.dropFinal_pending (s : State) (n : Nat) :
    (s.dropFinal n).pending = s.pending := rfl
@[simp] theorem State.dropFinal_phase (s : State) (n : Nat) : (s.dropFinal n).phase = s.phase := rfl
@[simp] theorem State.dropFinal_records (s : State) (n : Nat) :
    (s.dropFinal n).records = s.records := rfl
@[simp] theorem State.dropFinal_freeQueue (s : State) (n : Nat) :
    (s.dropFinal n).freeQueue = s.freeQueue := rfl
@[simp] theorem State.dropFinal_wornCount (s : State) (n : Nat) :
    (s.dropFinal n).wornCount = s.wornCount := rfl
@[simp] theorem State.dropFinal_lastGranted (s : State) (n : Nat) :
    (s.dropFinal n).lastGranted = s.lastGranted := rfl
@[simp] theorem State.dropFinal_cache (s : State) (n : Nat) :
    (s.dropFinal n).cache = cacheDropFinal s.cache n := rfl
@[simp] theorem State.dropFinal_epoch (s : State) (n : Nat) : (s.dropFinal n).epoch = s.epoch := rfl
@[simp] theorem State.dropFinal_cmd (s : State) (n : Nat) : (s.dropFinal n).cmd = s.cmd := rfl
@[simp] theorem State.dropFinal_args (s : State) (n : Nat) : (s.dropFinal n).args = s.args := rfl
@[simp] theorem State.dropFinal_results (s : State) (n : Nat) :
    (s.dropFinal n).results = s.results := rfl
@[simp] theorem State.dropFinal_lastOutcome (s : State) (n : Nat) :
    (s.dropFinal n).lastOutcome = s.lastOutcome := rfl
@[simp] theorem State.dropFinal_lastCommand (s : State) (n : Nat) :
    (s.dropFinal n).lastCommand = s.lastCommand := rfl
@[simp] theorem State.dropFinal_events (s : State) (n : Nat) :
    (s.dropFinal n).events = s.events := rfl
@[simp] theorem State.dropFinal_eventEnable (s : State) (n : Nat) :
    (s.dropFinal n).eventEnable = s.eventEnable := rfl
@[simp] theorem State.dropFinal_config (s : State) (n : Nat) :
    (s.dropFinal n).config = s.config := rfl
@[simp] theorem State.dropFinal_engineA (s : State) (n : Nat) :
    (s.dropFinal n).engineA = s.engineA := rfl
@[simp] theorem State.dropFinal_engineB (s : State) (n : Nat) :
    (s.dropFinal n).engineB = s.engineB := rfl
@[simp] theorem State.dropFinal_lookupQueue (s : State) (n : Nat) :
    (s.dropFinal n).lookupQueue = s.lookupQueue := rfl
@[simp] theorem State.dropFinal_releaseQueue (s : State) (n : Nat) :
    (s.dropFinal n).releaseQueue = s.releaseQueue := rfl
@[simp] theorem State.dropFinal_moves (s : State) (n : Nat) : (s.dropFinal n).moves = s.moves := rfl
@[simp] theorem State.dropFinal_parkList (s : State) (n : Nat) :
    (s.dropFinal n).parkList = s.parkList := rfl
@[simp] theorem State.dropFinal_cycles (s : State) (n : Nat) :
    (s.dropFinal n).cycles = s.cycles := rfl
@[simp] theorem State.dropFinal_interval (s : State) (n : Nat) :
    (s.dropFinal n).interval = s.interval := rfl
@[simp] theorem State.dropFinal_expired (s : State) (n : Nat) :
    (s.dropFinal n).expired = s.expired := rfl
@[simp] theorem State.dropFinal_pendingExpiries (s : State) (n : Nat) :
    (s.dropFinal n).pendingExpiries = s.pendingExpiries := rfl
@[simp] theorem State.dropFinal_sweep (s : State) (n : Nat) : (s.dropFinal n).sweep = s.sweep := rfl
@[simp] theorem State.dropFinal_gate (s : State) (n : Nat) : (s.dropFinal n).gate = s.gate := rfl
@[simp] theorem State.dropFinal_ports (s : State) (n : Nat) : (s.dropFinal n).ports = s.ports := rfl
@[simp] theorem State.dropFinal_portDomains (s : State) (n : Nat) :
    (s.dropFinal n).portDomains = s.portDomains := rfl
@[simp] theorem State.dropFinal_responses (s : State) (n : Nat) :
    (s.dropFinal n).responses = s.responses := rfl
@[simp] theorem State.dropFinal_acks (s : State) (n : Nat) : (s.dropFinal n).acks = s.acks := rfl

/-! ### bumpEpoch -/

@[simp] theorem State.bumpEpoch_record (s : State) (slot : Nat) :
    s.bumpEpoch.record slot = s.record slot := rfl
@[simp] theorem State.bumpEpoch_pending (s : State) : s.bumpEpoch.pending = s.pending := rfl
@[simp] theorem State.bumpEpoch_phase (s : State) : s.bumpEpoch.phase = s.phase := rfl
@[simp] theorem State.bumpEpoch_records (s : State) : s.bumpEpoch.records = s.records := rfl
@[simp] theorem State.bumpEpoch_freeQueue (s : State) : s.bumpEpoch.freeQueue = s.freeQueue := rfl
@[simp] theorem State.bumpEpoch_wornCount (s : State) : s.bumpEpoch.wornCount = s.wornCount := rfl
@[simp] theorem State.bumpEpoch_lastGranted (s : State) :
    s.bumpEpoch.lastGranted = s.lastGranted := rfl
@[simp] theorem State.bumpEpoch_cache (s : State) : s.bumpEpoch.cache = [] := rfl
@[simp] theorem State.bumpEpoch_epoch (s : State) : s.bumpEpoch.epoch = s.epoch + 1#16 := rfl
@[simp] theorem State.bumpEpoch_cmd (s : State) : s.bumpEpoch.cmd = s.cmd := rfl
@[simp] theorem State.bumpEpoch_args (s : State) : s.bumpEpoch.args = s.args := rfl
@[simp] theorem State.bumpEpoch_results (s : State) : s.bumpEpoch.results = s.results := rfl
@[simp] theorem State.bumpEpoch_lastOutcome (s : State) :
    s.bumpEpoch.lastOutcome = s.lastOutcome := rfl
@[simp] theorem State.bumpEpoch_lastCommand (s : State) :
    s.bumpEpoch.lastCommand = s.lastCommand := rfl
@[simp] theorem State.bumpEpoch_events (s : State) : s.bumpEpoch.events = s.events := rfl
@[simp] theorem State.bumpEpoch_eventEnable (s : State) :
    s.bumpEpoch.eventEnable = s.eventEnable := rfl
@[simp] theorem State.bumpEpoch_config (s : State) : s.bumpEpoch.config = s.config := rfl
@[simp] theorem State.bumpEpoch_engineA (s : State) : s.bumpEpoch.engineA = s.engineA := rfl
@[simp] theorem State.bumpEpoch_engineB (s : State) : s.bumpEpoch.engineB = s.engineB := rfl
@[simp] theorem State.bumpEpoch_lookupQueue (s : State) :
    s.bumpEpoch.lookupQueue = s.lookupQueue := rfl
@[simp] theorem State.bumpEpoch_releaseQueue (s : State) :
    s.bumpEpoch.releaseQueue = s.releaseQueue := rfl
@[simp] theorem State.bumpEpoch_moves (s : State) : s.bumpEpoch.moves = s.moves := rfl
@[simp] theorem State.bumpEpoch_parkList (s : State) : s.bumpEpoch.parkList = s.parkList := rfl
@[simp] theorem State.bumpEpoch_cycles (s : State) : s.bumpEpoch.cycles = s.cycles := rfl
@[simp] theorem State.bumpEpoch_interval (s : State) : s.bumpEpoch.interval = s.interval := rfl
@[simp] theorem State.bumpEpoch_expired (s : State) : s.bumpEpoch.expired = s.expired := rfl
@[simp] theorem State.bumpEpoch_pendingExpiries (s : State) :
    s.bumpEpoch.pendingExpiries = s.pendingExpiries := rfl
@[simp] theorem State.bumpEpoch_sweep (s : State) : s.bumpEpoch.sweep = s.sweep := rfl
@[simp] theorem State.bumpEpoch_gate (s : State) : s.bumpEpoch.gate = s.gate := rfl
@[simp] theorem State.bumpEpoch_ports (s : State) : s.bumpEpoch.ports = s.ports := rfl
@[simp] theorem State.bumpEpoch_portDomains (s : State) :
    s.bumpEpoch.portDomains = s.portDomains := rfl
@[simp] theorem State.bumpEpoch_responses (s : State) : s.bumpEpoch.responses = s.responses := rfl
@[simp] theorem State.bumpEpoch_acks (s : State) : s.bumpEpoch.acks = s.acks := rfl

/-! ### park -/

@[simp] theorem State.park_record (s : State) (q : LinkRequest) (n : Nat) (slot : Nat) :
    (s.park q n).record slot = s.record slot := rfl
@[simp] theorem State.park_pending (s : State) (q : LinkRequest) (n : Nat) :
    (s.park q n).pending = s.pending := rfl
@[simp] theorem State.park_phase (s : State) (q : LinkRequest) (n : Nat) :
    (s.park q n).phase = s.phase := rfl
@[simp] theorem State.park_records (s : State) (q : LinkRequest) (n : Nat) :
    (s.park q n).records = s.records := rfl
@[simp] theorem State.park_freeQueue (s : State) (q : LinkRequest) (n : Nat) :
    (s.park q n).freeQueue = s.freeQueue := rfl
@[simp] theorem State.park_wornCount (s : State) (q : LinkRequest) (n : Nat) :
    (s.park q n).wornCount = s.wornCount := rfl
@[simp] theorem State.park_lastGranted (s : State) (q : LinkRequest) (n : Nat) :
    (s.park q n).lastGranted = s.lastGranted := rfl
@[simp] theorem State.park_cache (s : State) (q : LinkRequest) (n : Nat) :
    (s.park q n).cache = s.cache := rfl
@[simp] theorem State.park_epoch (s : State) (q : LinkRequest) (n : Nat) :
    (s.park q n).epoch = s.epoch := rfl
@[simp] theorem State.park_cmd (s : State) (q : LinkRequest) (n : Nat) :
    (s.park q n).cmd = s.cmd := rfl
@[simp] theorem State.park_args (s : State) (q : LinkRequest) (n : Nat) :
    (s.park q n).args = s.args := rfl
@[simp] theorem State.park_results (s : State) (q : LinkRequest) (n : Nat) :
    (s.park q n).results = s.results := rfl
@[simp] theorem State.park_lastOutcome (s : State) (q : LinkRequest) (n : Nat) :
    (s.park q n).lastOutcome = s.lastOutcome := rfl
@[simp] theorem State.park_lastCommand (s : State) (q : LinkRequest) (n : Nat) :
    (s.park q n).lastCommand = s.lastCommand := rfl
@[simp] theorem State.park_events (s : State) (q : LinkRequest) (n : Nat) :
    (s.park q n).events = s.events := rfl
@[simp] theorem State.park_eventEnable (s : State) (q : LinkRequest) (n : Nat) :
    (s.park q n).eventEnable = s.eventEnable := rfl
@[simp] theorem State.park_config (s : State) (q : LinkRequest) (n : Nat) :
    (s.park q n).config = s.config := rfl
@[simp] theorem State.park_engineA (s : State) (q : LinkRequest) (n : Nat) :
    (s.park q n).engineA = s.engineA := rfl
@[simp] theorem State.park_engineB (s : State) (q : LinkRequest) (n : Nat) :
    (s.park q n).engineB = s.engineB := rfl
@[simp] theorem State.park_lookupQueue (s : State) (q : LinkRequest) (n : Nat) :
    (s.park q n).lookupQueue = s.lookupQueue := rfl
@[simp] theorem State.park_releaseQueue (s : State) (q : LinkRequest) (n : Nat) :
    (s.park q n).releaseQueue = s.releaseQueue := rfl
@[simp] theorem State.park_moves (s : State) (q : LinkRequest) (n : Nat) :
    (s.park q n).moves = s.moves := rfl
@[simp] theorem State.park_parkList (s : State) (q : LinkRequest) (n : Nat) :
    (s.park q n).parkList = s.parkList ++ [⟨q, n⟩] := rfl
@[simp] theorem State.park_cycles (s : State) (q : LinkRequest) (n : Nat) :
    (s.park q n).cycles = s.cycles := rfl
@[simp] theorem State.park_interval (s : State) (q : LinkRequest) (n : Nat) :
    (s.park q n).interval = s.interval := rfl
@[simp] theorem State.park_expired (s : State) (q : LinkRequest) (n : Nat) :
    (s.park q n).expired = s.expired := rfl
@[simp] theorem State.park_pendingExpiries (s : State) (q : LinkRequest) (n : Nat) :
    (s.park q n).pendingExpiries = s.pendingExpiries := rfl
@[simp] theorem State.park_sweep (s : State) (q : LinkRequest) (n : Nat) :
    (s.park q n).sweep = s.sweep := rfl
@[simp] theorem State.park_gate (s : State) (q : LinkRequest) (n : Nat) :
    (s.park q n).gate = s.gate := rfl
@[simp] theorem State.park_ports (s : State) (q : LinkRequest) (n : Nat) :
    (s.park q n).ports = s.ports := rfl
@[simp] theorem State.park_portDomains (s : State) (q : LinkRequest) (n : Nat) :
    (s.park q n).portDomains = s.portDomains := rfl
@[simp] theorem State.park_responses (s : State) (q : LinkRequest) (n : Nat) :
    (s.park q n).responses = s.responses := rfl
@[simp] theorem State.park_acks (s : State) (q : LinkRequest) (n : Nat) :
    (s.park q n).acks = s.acks := rfl

/-! ### release -/

@[simp] theorem State.release_record (s : State) (n : Nat) (slot : Nat) :
    (s.release n).record slot = s.record slot := rfl
@[simp] theorem State.release_pending (s : State) (n : Nat) :
    (s.release n).pending = s.pending := rfl
@[simp] theorem State.release_phase (s : State) (n : Nat) : (s.release n).phase = s.phase := rfl
@[simp] theorem State.release_records (s : State) (n : Nat) :
    (s.release n).records = s.records := rfl
@[simp] theorem State.release_freeQueue (s : State) (n : Nat) :
    (s.release n).freeQueue = s.freeQueue := rfl
@[simp] theorem State.release_wornCount (s : State) (n : Nat) :
    (s.release n).wornCount = s.wornCount := rfl
@[simp] theorem State.release_lastGranted (s : State) (n : Nat) :
    (s.release n).lastGranted = s.lastGranted := rfl
@[simp] theorem State.release_cache (s : State) (n : Nat) : (s.release n).cache = s.cache := rfl
@[simp] theorem State.release_epoch (s : State) (n : Nat) : (s.release n).epoch = s.epoch := rfl
@[simp] theorem State.release_cmd (s : State) (n : Nat) : (s.release n).cmd = s.cmd := rfl
@[simp] theorem State.release_args (s : State) (n : Nat) : (s.release n).args = s.args := rfl
@[simp] theorem State.release_results (s : State) (n : Nat) :
    (s.release n).results = s.results := rfl
@[simp] theorem State.release_lastOutcome (s : State) (n : Nat) :
    (s.release n).lastOutcome = s.lastOutcome := rfl
@[simp] theorem State.release_lastCommand (s : State) (n : Nat) :
    (s.release n).lastCommand = s.lastCommand := rfl
@[simp] theorem State.release_events (s : State) (n : Nat) : (s.release n).events = s.events := rfl
@[simp] theorem State.release_eventEnable (s : State) (n : Nat) :
    (s.release n).eventEnable = s.eventEnable := rfl
@[simp] theorem State.release_config (s : State) (n : Nat) : (s.release n).config = s.config := rfl
@[simp] theorem State.release_engineA (s : State) (n : Nat) :
    (s.release n).engineA = s.engineA := rfl
@[simp] theorem State.release_engineB (s : State) (n : Nat) :
    (s.release n).engineB = s.engineB := rfl
@[simp] theorem State.release_lookupQueue (s : State) (n : Nat) :
    (s.release n).lookupQueue = s.lookupQueue := rfl
@[simp] theorem State.release_releaseQueue (s : State) (n : Nat) :
    (s.release n).releaseQueue = s.releaseQueue ++ waitingFor s.parkList n := rfl
@[simp] theorem State.release_moves (s : State) (n : Nat) : (s.release n).moves = s.moves := rfl
@[simp] theorem State.release_parkList (s : State) (n : Nat) :
    (s.release n).parkList = s.parkList.filter (fun p => p.slot != n) := rfl
@[simp] theorem State.release_cycles (s : State) (n : Nat) : (s.release n).cycles = s.cycles := rfl
@[simp] theorem State.release_interval (s : State) (n : Nat) :
    (s.release n).interval = s.interval := rfl
@[simp] theorem State.release_expired (s : State) (n : Nat) :
    (s.release n).expired = s.expired := rfl
@[simp] theorem State.release_pendingExpiries (s : State) (n : Nat) :
    (s.release n).pendingExpiries = s.pendingExpiries := rfl
@[simp] theorem State.release_sweep (s : State) (n : Nat) : (s.release n).sweep = s.sweep := rfl
@[simp] theorem State.release_gate (s : State) (n : Nat) : (s.release n).gate = s.gate := rfl
@[simp] theorem State.release_ports (s : State) (n : Nat) : (s.release n).ports = s.ports := rfl
@[simp] theorem State.release_portDomains (s : State) (n : Nat) :
    (s.release n).portDomains = s.portDomains := rfl
@[simp] theorem State.release_responses (s : State) (n : Nat) :
    (s.release n).responses = s.responses := rfl
@[simp] theorem State.release_acks (s : State) (n : Nat) : (s.release n).acks = s.acks := rfl

/-! ### place -/

@[simp] theorem State.place_record (s : State) (q : LinkRequest) (x : WalkResult) (slot : Nat) :
    (s.place q x).record slot = s.record slot := rfl
@[simp] theorem State.place_pending (s : State) (q : LinkRequest) (x : WalkResult) :
    (s.place q x).pending = s.pending := rfl
@[simp] theorem State.place_phase (s : State) (q : LinkRequest) (x : WalkResult) :
    (s.place q x).phase = s.phase := rfl
@[simp] theorem State.place_records (s : State) (q : LinkRequest) (x : WalkResult) :
    (s.place q x).records = s.records := rfl
@[simp] theorem State.place_freeQueue (s : State) (q : LinkRequest) (x : WalkResult) :
    (s.place q x).freeQueue = s.freeQueue := rfl
@[simp] theorem State.place_wornCount (s : State) (q : LinkRequest) (x : WalkResult) :
    (s.place q x).wornCount = s.wornCount := rfl
@[simp] theorem State.place_lastGranted (s : State) (q : LinkRequest) (x : WalkResult) :
    (s.place q x).lastGranted = s.lastGranted := rfl
@[simp] theorem State.place_cache (s : State) (q : LinkRequest) (x : WalkResult) :
    (s.place q x).cache = s.cache := rfl
@[simp] theorem State.place_epoch (s : State) (q : LinkRequest) (x : WalkResult) :
    (s.place q x).epoch = s.epoch := rfl
@[simp] theorem State.place_cmd (s : State) (q : LinkRequest) (x : WalkResult) :
    (s.place q x).cmd = s.cmd := rfl
@[simp] theorem State.place_args (s : State) (q : LinkRequest) (x : WalkResult) :
    (s.place q x).args = s.args := rfl
@[simp] theorem State.place_results (s : State) (q : LinkRequest) (x : WalkResult) :
    (s.place q x).results = s.results := rfl
@[simp] theorem State.place_lastOutcome (s : State) (q : LinkRequest) (x : WalkResult) :
    (s.place q x).lastOutcome = s.lastOutcome := rfl
@[simp] theorem State.place_lastCommand (s : State) (q : LinkRequest) (x : WalkResult) :
    (s.place q x).lastCommand = s.lastCommand := rfl
@[simp] theorem State.place_events (s : State) (q : LinkRequest) (x : WalkResult) :
    (s.place q x).events = s.events := rfl
@[simp] theorem State.place_eventEnable (s : State) (q : LinkRequest) (x : WalkResult) :
    (s.place q x).eventEnable = s.eventEnable := rfl
@[simp] theorem State.place_config (s : State) (q : LinkRequest) (x : WalkResult) :
    (s.place q x).config = s.config := rfl
@[simp] theorem State.place_engineA (s : State) (q : LinkRequest) (x : WalkResult) :
    (s.place q x).engineA = s.engineA := rfl
@[simp] theorem State.place_engineB (s : State) (q : LinkRequest) (x : WalkResult) :
    (s.place q x).engineB = s.engineB := rfl
@[simp] theorem State.place_lookupQueue (s : State) (q : LinkRequest) (x : WalkResult) :
    (s.place q x).lookupQueue = s.lookupQueue := rfl
@[simp] theorem State.place_releaseQueue (s : State) (q : LinkRequest) (x : WalkResult) :
    (s.place q x).releaseQueue = s.releaseQueue := rfl
@[simp] theorem State.place_moves (s : State) (q : LinkRequest) (x : WalkResult) :
    (s.place q x).moves = s.moves := rfl
@[simp] theorem State.place_parkList (s : State) (q : LinkRequest) (x : WalkResult) :
    (s.place q x).parkList = s.parkList := rfl
@[simp] theorem State.place_cycles (s : State) (q : LinkRequest) (x : WalkResult) :
    (s.place q x).cycles = s.cycles := rfl
@[simp] theorem State.place_interval (s : State) (q : LinkRequest) (x : WalkResult) :
    (s.place q x).interval = s.interval := rfl
@[simp] theorem State.place_expired (s : State) (q : LinkRequest) (x : WalkResult) :
    (s.place q x).expired = s.expired := rfl
@[simp] theorem State.place_pendingExpiries (s : State) (q : LinkRequest) (x : WalkResult) :
    (s.place q x).pendingExpiries = s.pendingExpiries := rfl
@[simp] theorem State.place_sweep (s : State) (q : LinkRequest) (x : WalkResult) :
    (s.place q x).sweep = s.sweep := rfl
@[simp] theorem State.place_gate (s : State) (q : LinkRequest) (x : WalkResult) :
    (s.place q x).gate = s.gate := rfl
@[simp] theorem State.place_ports (s : State) (q : LinkRequest) (x : WalkResult) :
    (s.place q x).ports = s.ports := rfl
@[simp] theorem State.place_portDomains (s : State) (q : LinkRequest) (x : WalkResult) :
    (s.place q x).portDomains = s.portDomains := rfl
@[simp] theorem State.place_responses (s : State) (q : LinkRequest) (x : WalkResult) :
    (s.place q x).responses = s.responses ++ [⟨q.port, q.tag, x⟩] := rfl
@[simp] theorem State.place_acks (s : State) (q : LinkRequest) (x : WalkResult) :
    (s.place q x).acks = s.acks := rfl

/-! ### complete -/

@[simp] theorem State.complete_record (s : State) (c : BitVec 8) (o : OutcomeCode) (x : Results) (slot : Nat) :
    (s.complete c o x).record slot = s.record slot := rfl
@[simp] theorem State.complete_pending (s : State) (c : BitVec 8) (o : OutcomeCode) (x : Results) :
    (s.complete c o x).pending = s.pending := rfl
@[simp] theorem State.complete_phase (s : State) (c : BitVec 8) (o : OutcomeCode) (x : Results) :
    (s.complete c o x).phase = s.phase := rfl
@[simp] theorem State.complete_records (s : State) (c : BitVec 8) (o : OutcomeCode) (x : Results) :
    (s.complete c o x).records = s.records := rfl
@[simp] theorem State.complete_freeQueue (s : State) (c : BitVec 8) (o : OutcomeCode) (x : Results) :
    (s.complete c o x).freeQueue = s.freeQueue := rfl
@[simp] theorem State.complete_wornCount (s : State) (c : BitVec 8) (o : OutcomeCode) (x : Results) :
    (s.complete c o x).wornCount = s.wornCount := rfl
@[simp] theorem State.complete_lastGranted (s : State) (c : BitVec 8) (o : OutcomeCode) (x : Results) :
    (s.complete c o x).lastGranted = s.lastGranted := rfl
@[simp] theorem State.complete_cache (s : State) (c : BitVec 8) (o : OutcomeCode) (x : Results) :
    (s.complete c o x).cache = s.cache := rfl
@[simp] theorem State.complete_epoch (s : State) (c : BitVec 8) (o : OutcomeCode) (x : Results) :
    (s.complete c o x).epoch = s.epoch := rfl
@[simp] theorem State.complete_cmd (s : State) (c : BitVec 8) (o : OutcomeCode) (x : Results) :
    (s.complete c o x).cmd = none := rfl
@[simp] theorem State.complete_args (s : State) (c : BitVec 8) (o : OutcomeCode) (x : Results) :
    (s.complete c o x).args = s.args := rfl
@[simp] theorem State.complete_results (s : State) (c : BitVec 8) (o : OutcomeCode) (x : Results) :
    (s.complete c o x).results = x := rfl
@[simp] theorem State.complete_lastOutcome (s : State) (c : BitVec 8) (o : OutcomeCode) (x : Results) :
    (s.complete c o x).lastOutcome = o := rfl
@[simp] theorem State.complete_lastCommand (s : State) (c : BitVec 8) (o : OutcomeCode) (x : Results) :
    (s.complete c o x).lastCommand = c := rfl
@[simp] theorem State.complete_events (s : State) (c : BitVec 8) (o : OutcomeCode) (x : Results) :
    (s.complete c o x).events = raised s.events .cmdDone := rfl
@[simp] theorem State.complete_eventEnable (s : State) (c : BitVec 8) (o : OutcomeCode) (x : Results) :
    (s.complete c o x).eventEnable = s.eventEnable := rfl
@[simp] theorem State.complete_config (s : State) (c : BitVec 8) (o : OutcomeCode) (x : Results) :
    (s.complete c o x).config = s.config := rfl
@[simp] theorem State.complete_engineA (s : State) (c : BitVec 8) (o : OutcomeCode) (x : Results) :
    (s.complete c o x).engineA = s.engineA := rfl
@[simp] theorem State.complete_engineB (s : State) (c : BitVec 8) (o : OutcomeCode) (x : Results) :
    (s.complete c o x).engineB = s.engineB := rfl
@[simp] theorem State.complete_lookupQueue (s : State) (c : BitVec 8) (o : OutcomeCode) (x : Results) :
    (s.complete c o x).lookupQueue = s.lookupQueue := rfl
@[simp] theorem State.complete_releaseQueue (s : State) (c : BitVec 8) (o : OutcomeCode) (x : Results) :
    (s.complete c o x).releaseQueue = s.releaseQueue := rfl
@[simp] theorem State.complete_moves (s : State) (c : BitVec 8) (o : OutcomeCode) (x : Results) :
    (s.complete c o x).moves = s.moves := rfl
@[simp] theorem State.complete_parkList (s : State) (c : BitVec 8) (o : OutcomeCode) (x : Results) :
    (s.complete c o x).parkList = s.parkList := rfl
@[simp] theorem State.complete_cycles (s : State) (c : BitVec 8) (o : OutcomeCode) (x : Results) :
    (s.complete c o x).cycles = s.cycles := rfl
@[simp] theorem State.complete_interval (s : State) (c : BitVec 8) (o : OutcomeCode) (x : Results) :
    (s.complete c o x).interval = s.interval := rfl
@[simp] theorem State.complete_expired (s : State) (c : BitVec 8) (o : OutcomeCode) (x : Results) :
    (s.complete c o x).expired = s.expired := rfl
@[simp] theorem State.complete_pendingExpiries (s : State) (c : BitVec 8) (o : OutcomeCode) (x : Results) :
    (s.complete c o x).pendingExpiries = s.pendingExpiries := rfl
@[simp] theorem State.complete_sweep (s : State) (c : BitVec 8) (o : OutcomeCode) (x : Results) :
    (s.complete c o x).sweep = s.sweep := rfl
@[simp] theorem State.complete_gate (s : State) (c : BitVec 8) (o : OutcomeCode) (x : Results) :
    (s.complete c o x).gate = s.gate := rfl
@[simp] theorem State.complete_ports (s : State) (c : BitVec 8) (o : OutcomeCode) (x : Results) :
    (s.complete c o x).ports = s.ports := rfl
@[simp] theorem State.complete_portDomains (s : State) (c : BitVec 8) (o : OutcomeCode) (x : Results) :
    (s.complete c o x).portDomains = s.portDomains := rfl
@[simp] theorem State.complete_responses (s : State) (c : BitVec 8) (o : OutcomeCode) (x : Results) :
    (s.complete c o x).responses = s.responses := rfl
@[simp] theorem State.complete_acks (s : State) (c : BitVec 8) (o : OutcomeCode) (x : Results) :
    (s.complete c o x).acks = s.acks := rfl

/-! ### finish -/

@[simp] theorem State.finish_record (s : State) (k : Cmd) (o : OutcomeCode) (slot : Nat) :
    (s.finish k o).record slot = s.record slot := rfl
@[simp] theorem State.finish_pending (s : State) (k : Cmd) (o : OutcomeCode) :
    (s.finish k o).pending = s.pending := rfl
@[simp] theorem State.finish_phase (s : State) (k : Cmd) (o : OutcomeCode) :
    (s.finish k o).phase = s.phase := rfl
@[simp] theorem State.finish_records (s : State) (k : Cmd) (o : OutcomeCode) :
    (s.finish k o).records = s.records := rfl
@[simp] theorem State.finish_freeQueue (s : State) (k : Cmd) (o : OutcomeCode) :
    (s.finish k o).freeQueue = s.freeQueue := rfl
@[simp] theorem State.finish_wornCount (s : State) (k : Cmd) (o : OutcomeCode) :
    (s.finish k o).wornCount = s.wornCount := rfl
@[simp] theorem State.finish_lastGranted (s : State) (k : Cmd) (o : OutcomeCode) :
    (s.finish k o).lastGranted = s.lastGranted := rfl
@[simp] theorem State.finish_cache (s : State) (k : Cmd) (o : OutcomeCode) :
    (s.finish k o).cache = s.cache := rfl
@[simp] theorem State.finish_epoch (s : State) (k : Cmd) (o : OutcomeCode) :
    (s.finish k o).epoch = s.epoch := rfl
@[simp] theorem State.finish_cmd (s : State) (k : Cmd) (o : OutcomeCode) :
    (s.finish k o).cmd = none := rfl
@[simp] theorem State.finish_args (s : State) (k : Cmd) (o : OutcomeCode) :
    (s.finish k o).args = s.args := rfl
@[simp] theorem State.finish_results (s : State) (k : Cmd) (o : OutcomeCode) :
    (s.finish k o).results = noResults := rfl
@[simp] theorem State.finish_lastOutcome (s : State) (k : Cmd) (o : OutcomeCode) :
    (s.finish k o).lastOutcome = o := rfl
@[simp] theorem State.finish_lastCommand (s : State) (k : Cmd) (o : OutcomeCode) :
    (s.finish k o).lastCommand = k.code := rfl
@[simp] theorem State.finish_events (s : State) (k : Cmd) (o : OutcomeCode) :
    (s.finish k o).events = raised s.events .cmdDone := rfl
@[simp] theorem State.finish_eventEnable (s : State) (k : Cmd) (o : OutcomeCode) :
    (s.finish k o).eventEnable = s.eventEnable := rfl
@[simp] theorem State.finish_config (s : State) (k : Cmd) (o : OutcomeCode) :
    (s.finish k o).config = s.config := rfl
@[simp] theorem State.finish_engineA (s : State) (k : Cmd) (o : OutcomeCode) :
    (s.finish k o).engineA = s.engineA := rfl
@[simp] theorem State.finish_engineB (s : State) (k : Cmd) (o : OutcomeCode) :
    (s.finish k o).engineB = s.engineB := rfl
@[simp] theorem State.finish_lookupQueue (s : State) (k : Cmd) (o : OutcomeCode) :
    (s.finish k o).lookupQueue = s.lookupQueue := rfl
@[simp] theorem State.finish_releaseQueue (s : State) (k : Cmd) (o : OutcomeCode) :
    (s.finish k o).releaseQueue = s.releaseQueue := rfl
@[simp] theorem State.finish_moves (s : State) (k : Cmd) (o : OutcomeCode) :
    (s.finish k o).moves = s.moves := rfl
@[simp] theorem State.finish_parkList (s : State) (k : Cmd) (o : OutcomeCode) :
    (s.finish k o).parkList = s.parkList := rfl
@[simp] theorem State.finish_cycles (s : State) (k : Cmd) (o : OutcomeCode) :
    (s.finish k o).cycles = s.cycles := rfl
@[simp] theorem State.finish_interval (s : State) (k : Cmd) (o : OutcomeCode) :
    (s.finish k o).interval = s.interval := rfl
@[simp] theorem State.finish_expired (s : State) (k : Cmd) (o : OutcomeCode) :
    (s.finish k o).expired = s.expired := rfl
@[simp] theorem State.finish_pendingExpiries (s : State) (k : Cmd) (o : OutcomeCode) :
    (s.finish k o).pendingExpiries = s.pendingExpiries := rfl
@[simp] theorem State.finish_sweep (s : State) (k : Cmd) (o : OutcomeCode) :
    (s.finish k o).sweep = s.sweep := rfl
@[simp] theorem State.finish_gate (s : State) (k : Cmd) (o : OutcomeCode) :
    (s.finish k o).gate = s.gate := rfl
@[simp] theorem State.finish_ports (s : State) (k : Cmd) (o : OutcomeCode) :
    (s.finish k o).ports = s.ports := rfl
@[simp] theorem State.finish_portDomains (s : State) (k : Cmd) (o : OutcomeCode) :
    (s.finish k o).portDomains = s.portDomains := rfl
@[simp] theorem State.finish_responses (s : State) (k : Cmd) (o : OutcomeCode) :
    (s.finish k o).responses = s.responses := rfl
@[simp] theorem State.finish_acks (s : State) (k : Cmd) (o : OutcomeCode) :
    (s.finish k o).acks = s.acks := rfl

/-! ### begin -/

@[simp] theorem State.begin_record (s : State) (k : Cmd) (a : Quad Word) (p : CmdPhase) (slot : Nat) :
    (s.begin k a p).record slot = s.record slot := rfl
@[simp] theorem State.begin_pending (s : State) (k : Cmd) (a : Quad Word) (p : CmdPhase) :
    (s.begin k a p).pending = s.pending := rfl
@[simp] theorem State.begin_phase (s : State) (k : Cmd) (a : Quad Word) (p : CmdPhase) :
    (s.begin k a p).phase = s.phase := rfl
@[simp] theorem State.begin_records (s : State) (k : Cmd) (a : Quad Word) (p : CmdPhase) :
    (s.begin k a p).records = s.records := rfl
@[simp] theorem State.begin_freeQueue (s : State) (k : Cmd) (a : Quad Word) (p : CmdPhase) :
    (s.begin k a p).freeQueue = s.freeQueue := rfl
@[simp] theorem State.begin_wornCount (s : State) (k : Cmd) (a : Quad Word) (p : CmdPhase) :
    (s.begin k a p).wornCount = s.wornCount := rfl
@[simp] theorem State.begin_lastGranted (s : State) (k : Cmd) (a : Quad Word) (p : CmdPhase) :
    (s.begin k a p).lastGranted = s.lastGranted := rfl
@[simp] theorem State.begin_cache (s : State) (k : Cmd) (a : Quad Word) (p : CmdPhase) :
    (s.begin k a p).cache = s.cache := rfl
@[simp] theorem State.begin_epoch (s : State) (k : Cmd) (a : Quad Word) (p : CmdPhase) :
    (s.begin k a p).epoch = s.epoch := rfl
@[simp] theorem State.begin_cmd (s : State) (k : Cmd) (a : Quad Word) (p : CmdPhase) :
    (s.begin k a p).cmd = some ⟨k, a, p⟩ := rfl
@[simp] theorem State.begin_args (s : State) (k : Cmd) (a : Quad Word) (p : CmdPhase) :
    (s.begin k a p).args = s.args := rfl
@[simp] theorem State.begin_results (s : State) (k : Cmd) (a : Quad Word) (p : CmdPhase) :
    (s.begin k a p).results = s.results := rfl
@[simp] theorem State.begin_lastOutcome (s : State) (k : Cmd) (a : Quad Word) (p : CmdPhase) :
    (s.begin k a p).lastOutcome = s.lastOutcome := rfl
@[simp] theorem State.begin_lastCommand (s : State) (k : Cmd) (a : Quad Word) (p : CmdPhase) :
    (s.begin k a p).lastCommand = s.lastCommand := rfl
@[simp] theorem State.begin_events (s : State) (k : Cmd) (a : Quad Word) (p : CmdPhase) :
    (s.begin k a p).events = s.events := rfl
@[simp] theorem State.begin_eventEnable (s : State) (k : Cmd) (a : Quad Word) (p : CmdPhase) :
    (s.begin k a p).eventEnable = s.eventEnable := rfl
@[simp] theorem State.begin_config (s : State) (k : Cmd) (a : Quad Word) (p : CmdPhase) :
    (s.begin k a p).config = s.config := rfl
@[simp] theorem State.begin_engineA (s : State) (k : Cmd) (a : Quad Word) (p : CmdPhase) :
    (s.begin k a p).engineA = s.engineA := rfl
@[simp] theorem State.begin_engineB (s : State) (k : Cmd) (a : Quad Word) (p : CmdPhase) :
    (s.begin k a p).engineB = s.engineB := rfl
@[simp] theorem State.begin_lookupQueue (s : State) (k : Cmd) (a : Quad Word) (p : CmdPhase) :
    (s.begin k a p).lookupQueue = s.lookupQueue := rfl
@[simp] theorem State.begin_releaseQueue (s : State) (k : Cmd) (a : Quad Word) (p : CmdPhase) :
    (s.begin k a p).releaseQueue = s.releaseQueue := rfl
@[simp] theorem State.begin_moves (s : State) (k : Cmd) (a : Quad Word) (p : CmdPhase) :
    (s.begin k a p).moves = s.moves := rfl
@[simp] theorem State.begin_parkList (s : State) (k : Cmd) (a : Quad Word) (p : CmdPhase) :
    (s.begin k a p).parkList = s.parkList := rfl
@[simp] theorem State.begin_cycles (s : State) (k : Cmd) (a : Quad Word) (p : CmdPhase) :
    (s.begin k a p).cycles = s.cycles := rfl
@[simp] theorem State.begin_interval (s : State) (k : Cmd) (a : Quad Word) (p : CmdPhase) :
    (s.begin k a p).interval = s.interval := rfl
@[simp] theorem State.begin_expired (s : State) (k : Cmd) (a : Quad Word) (p : CmdPhase) :
    (s.begin k a p).expired = s.expired := rfl
@[simp] theorem State.begin_pendingExpiries (s : State) (k : Cmd) (a : Quad Word) (p : CmdPhase) :
    (s.begin k a p).pendingExpiries = s.pendingExpiries := rfl
@[simp] theorem State.begin_sweep (s : State) (k : Cmd) (a : Quad Word) (p : CmdPhase) :
    (s.begin k a p).sweep = s.sweep := rfl
@[simp] theorem State.begin_gate (s : State) (k : Cmd) (a : Quad Word) (p : CmdPhase) :
    (s.begin k a p).gate = s.gate := rfl
@[simp] theorem State.begin_ports (s : State) (k : Cmd) (a : Quad Word) (p : CmdPhase) :
    (s.begin k a p).ports = s.ports := rfl
@[simp] theorem State.begin_portDomains (s : State) (k : Cmd) (a : Quad Word) (p : CmdPhase) :
    (s.begin k a p).portDomains = s.portDomains := rfl
@[simp] theorem State.begin_responses (s : State) (k : Cmd) (a : Quad Word) (p : CmdPhase) :
    (s.begin k a p).responses = s.responses := rfl
@[simp] theorem State.begin_acks (s : State) (k : Cmd) (a : Quad Word) (p : CmdPhase) :
    (s.begin k a p).acks = s.acks := rfl

/-! ### setEngineA -/

@[simp] theorem State.setEngineA_record (s : State) (x : Engine) (slot : Nat) :
    (s.setEngine .a x).record slot = s.record slot := rfl
@[simp] theorem State.setEngineA_pending (s : State) (x : Engine) :
    (s.setEngine .a x).pending = s.pending := rfl
@[simp] theorem State.setEngineA_phase (s : State) (x : Engine) :
    (s.setEngine .a x).phase = s.phase := rfl
@[simp] theorem State.setEngineA_records (s : State) (x : Engine) :
    (s.setEngine .a x).records = s.records := rfl
@[simp] theorem State.setEngineA_freeQueue (s : State) (x : Engine) :
    (s.setEngine .a x).freeQueue = s.freeQueue := rfl
@[simp] theorem State.setEngineA_wornCount (s : State) (x : Engine) :
    (s.setEngine .a x).wornCount = s.wornCount := rfl
@[simp] theorem State.setEngineA_lastGranted (s : State) (x : Engine) :
    (s.setEngine .a x).lastGranted = s.lastGranted := rfl
@[simp] theorem State.setEngineA_cache (s : State) (x : Engine) :
    (s.setEngine .a x).cache = s.cache := rfl
@[simp] theorem State.setEngineA_epoch (s : State) (x : Engine) :
    (s.setEngine .a x).epoch = s.epoch := rfl
@[simp] theorem State.setEngineA_cmd (s : State) (x : Engine) :
    (s.setEngine .a x).cmd = s.cmd := rfl
@[simp] theorem State.setEngineA_args (s : State) (x : Engine) :
    (s.setEngine .a x).args = s.args := rfl
@[simp] theorem State.setEngineA_results (s : State) (x : Engine) :
    (s.setEngine .a x).results = s.results := rfl
@[simp] theorem State.setEngineA_lastOutcome (s : State) (x : Engine) :
    (s.setEngine .a x).lastOutcome = s.lastOutcome := rfl
@[simp] theorem State.setEngineA_lastCommand (s : State) (x : Engine) :
    (s.setEngine .a x).lastCommand = s.lastCommand := rfl
@[simp] theorem State.setEngineA_events (s : State) (x : Engine) :
    (s.setEngine .a x).events = s.events := rfl
@[simp] theorem State.setEngineA_eventEnable (s : State) (x : Engine) :
    (s.setEngine .a x).eventEnable = s.eventEnable := rfl
@[simp] theorem State.setEngineA_config (s : State) (x : Engine) :
    (s.setEngine .a x).config = s.config := rfl
@[simp] theorem State.setEngineA_engineA (s : State) (x : Engine) :
    (s.setEngine .a x).engineA = x := rfl
@[simp] theorem State.setEngineA_engineB (s : State) (x : Engine) :
    (s.setEngine .a x).engineB = s.engineB := rfl
@[simp] theorem State.setEngineA_lookupQueue (s : State) (x : Engine) :
    (s.setEngine .a x).lookupQueue = s.lookupQueue := rfl
@[simp] theorem State.setEngineA_releaseQueue (s : State) (x : Engine) :
    (s.setEngine .a x).releaseQueue = s.releaseQueue := rfl
@[simp] theorem State.setEngineA_moves (s : State) (x : Engine) :
    (s.setEngine .a x).moves = s.moves := rfl
@[simp] theorem State.setEngineA_parkList (s : State) (x : Engine) :
    (s.setEngine .a x).parkList = s.parkList := rfl
@[simp] theorem State.setEngineA_cycles (s : State) (x : Engine) :
    (s.setEngine .a x).cycles = s.cycles := rfl
@[simp] theorem State.setEngineA_interval (s : State) (x : Engine) :
    (s.setEngine .a x).interval = s.interval := rfl
@[simp] theorem State.setEngineA_expired (s : State) (x : Engine) :
    (s.setEngine .a x).expired = s.expired := rfl
@[simp] theorem State.setEngineA_pendingExpiries (s : State) (x : Engine) :
    (s.setEngine .a x).pendingExpiries = s.pendingExpiries := rfl
@[simp] theorem State.setEngineA_sweep (s : State) (x : Engine) :
    (s.setEngine .a x).sweep = s.sweep := rfl
@[simp] theorem State.setEngineA_gate (s : State) (x : Engine) :
    (s.setEngine .a x).gate = s.gate := rfl
@[simp] theorem State.setEngineA_ports (s : State) (x : Engine) :
    (s.setEngine .a x).ports = s.ports := rfl
@[simp] theorem State.setEngineA_portDomains (s : State) (x : Engine) :
    (s.setEngine .a x).portDomains = s.portDomains := rfl
@[simp] theorem State.setEngineA_responses (s : State) (x : Engine) :
    (s.setEngine .a x).responses = s.responses := rfl
@[simp] theorem State.setEngineA_acks (s : State) (x : Engine) :
    (s.setEngine .a x).acks = s.acks := rfl

/-! ### setEngineB -/

@[simp] theorem State.setEngineB_record (s : State) (x : Engine) (slot : Nat) :
    (s.setEngine .b x).record slot = s.record slot := rfl
@[simp] theorem State.setEngineB_pending (s : State) (x : Engine) :
    (s.setEngine .b x).pending = s.pending := rfl
@[simp] theorem State.setEngineB_phase (s : State) (x : Engine) :
    (s.setEngine .b x).phase = s.phase := rfl
@[simp] theorem State.setEngineB_records (s : State) (x : Engine) :
    (s.setEngine .b x).records = s.records := rfl
@[simp] theorem State.setEngineB_freeQueue (s : State) (x : Engine) :
    (s.setEngine .b x).freeQueue = s.freeQueue := rfl
@[simp] theorem State.setEngineB_wornCount (s : State) (x : Engine) :
    (s.setEngine .b x).wornCount = s.wornCount := rfl
@[simp] theorem State.setEngineB_lastGranted (s : State) (x : Engine) :
    (s.setEngine .b x).lastGranted = s.lastGranted := rfl
@[simp] theorem State.setEngineB_cache (s : State) (x : Engine) :
    (s.setEngine .b x).cache = s.cache := rfl
@[simp] theorem State.setEngineB_epoch (s : State) (x : Engine) :
    (s.setEngine .b x).epoch = s.epoch := rfl
@[simp] theorem State.setEngineB_cmd (s : State) (x : Engine) :
    (s.setEngine .b x).cmd = s.cmd := rfl
@[simp] theorem State.setEngineB_args (s : State) (x : Engine) :
    (s.setEngine .b x).args = s.args := rfl
@[simp] theorem State.setEngineB_results (s : State) (x : Engine) :
    (s.setEngine .b x).results = s.results := rfl
@[simp] theorem State.setEngineB_lastOutcome (s : State) (x : Engine) :
    (s.setEngine .b x).lastOutcome = s.lastOutcome := rfl
@[simp] theorem State.setEngineB_lastCommand (s : State) (x : Engine) :
    (s.setEngine .b x).lastCommand = s.lastCommand := rfl
@[simp] theorem State.setEngineB_events (s : State) (x : Engine) :
    (s.setEngine .b x).events = s.events := rfl
@[simp] theorem State.setEngineB_eventEnable (s : State) (x : Engine) :
    (s.setEngine .b x).eventEnable = s.eventEnable := rfl
@[simp] theorem State.setEngineB_config (s : State) (x : Engine) :
    (s.setEngine .b x).config = s.config := rfl
@[simp] theorem State.setEngineB_engineA (s : State) (x : Engine) :
    (s.setEngine .b x).engineA = s.engineA := rfl
@[simp] theorem State.setEngineB_engineB (s : State) (x : Engine) :
    (s.setEngine .b x).engineB = x := rfl
@[simp] theorem State.setEngineB_lookupQueue (s : State) (x : Engine) :
    (s.setEngine .b x).lookupQueue = s.lookupQueue := rfl
@[simp] theorem State.setEngineB_releaseQueue (s : State) (x : Engine) :
    (s.setEngine .b x).releaseQueue = s.releaseQueue := rfl
@[simp] theorem State.setEngineB_moves (s : State) (x : Engine) :
    (s.setEngine .b x).moves = s.moves := rfl
@[simp] theorem State.setEngineB_parkList (s : State) (x : Engine) :
    (s.setEngine .b x).parkList = s.parkList := rfl
@[simp] theorem State.setEngineB_cycles (s : State) (x : Engine) :
    (s.setEngine .b x).cycles = s.cycles := rfl
@[simp] theorem State.setEngineB_interval (s : State) (x : Engine) :
    (s.setEngine .b x).interval = s.interval := rfl
@[simp] theorem State.setEngineB_expired (s : State) (x : Engine) :
    (s.setEngine .b x).expired = s.expired := rfl
@[simp] theorem State.setEngineB_pendingExpiries (s : State) (x : Engine) :
    (s.setEngine .b x).pendingExpiries = s.pendingExpiries := rfl
@[simp] theorem State.setEngineB_sweep (s : State) (x : Engine) :
    (s.setEngine .b x).sweep = s.sweep := rfl
@[simp] theorem State.setEngineB_gate (s : State) (x : Engine) :
    (s.setEngine .b x).gate = s.gate := rfl
@[simp] theorem State.setEngineB_ports (s : State) (x : Engine) :
    (s.setEngine .b x).ports = s.ports := rfl
@[simp] theorem State.setEngineB_portDomains (s : State) (x : Engine) :
    (s.setEngine .b x).portDomains = s.portDomains := rfl
@[simp] theorem State.setEngineB_responses (s : State) (x : Engine) :
    (s.setEngine .b x).responses = s.responses := rfl
@[simp] theorem State.setEngineB_acks (s : State) (x : Engine) :
    (s.setEngine .b x).acks = s.acks := rfl

/-! ### deliverTick -/

@[simp] theorem State.deliverTick_record (s : State) (slot : Nat) :
    s.deliverTick.record slot = s.record slot := rfl
@[simp] theorem State.deliverTick_pending (s : State) : s.deliverTick.pending = s.pending := rfl
@[simp] theorem State.deliverTick_phase (s : State) : s.deliverTick.phase = s.phase := rfl
@[simp] theorem State.deliverTick_records (s : State) : s.deliverTick.records = s.records := rfl
@[simp] theorem State.deliverTick_freeQueue (s : State) :
    s.deliverTick.freeQueue = s.freeQueue := rfl
@[simp] theorem State.deliverTick_wornCount (s : State) :
    s.deliverTick.wornCount = s.wornCount := rfl
@[simp] theorem State.deliverTick_lastGranted (s : State) :
    s.deliverTick.lastGranted = s.lastGranted := rfl
@[simp] theorem State.deliverTick_cache (s : State) : s.deliverTick.cache = s.cache := rfl
@[simp] theorem State.deliverTick_epoch (s : State) : s.deliverTick.epoch = s.epoch := rfl
@[simp] theorem State.deliverTick_cmd (s : State) : s.deliverTick.cmd = s.cmd := rfl
@[simp] theorem State.deliverTick_args (s : State) : s.deliverTick.args = s.args := rfl
@[simp] theorem State.deliverTick_results (s : State) : s.deliverTick.results = s.results := rfl
@[simp] theorem State.deliverTick_lastOutcome (s : State) :
    s.deliverTick.lastOutcome = s.lastOutcome := rfl
@[simp] theorem State.deliverTick_lastCommand (s : State) :
    s.deliverTick.lastCommand = s.lastCommand := rfl
@[simp] theorem State.deliverTick_events (s : State) : s.deliverTick.events = s.events := rfl
@[simp] theorem State.deliverTick_eventEnable (s : State) :
    s.deliverTick.eventEnable = s.eventEnable := rfl
@[simp] theorem State.deliverTick_config (s : State) : s.deliverTick.config = s.config := rfl
@[simp] theorem State.deliverTick_engineA (s : State) : s.deliverTick.engineA = s.engineA := rfl
@[simp] theorem State.deliverTick_engineB (s : State) : s.deliverTick.engineB = s.engineB := rfl
@[simp] theorem State.deliverTick_lookupQueue (s : State) :
    s.deliverTick.lookupQueue = s.lookupQueue := rfl
@[simp] theorem State.deliverTick_releaseQueue (s : State) :
    s.deliverTick.releaseQueue = s.releaseQueue := rfl
@[simp] theorem State.deliverTick_moves (s : State) :
    s.deliverTick.moves = ⟨s.moves.at0.afterTick, s.moves.at1.afterTick, s.moves.at2.afterTick, s.moves.at3.afterTick⟩ := rfl
@[simp] theorem State.deliverTick_parkList (s : State) : s.deliverTick.parkList = s.parkList := rfl
@[simp] theorem State.deliverTick_cycles (s : State) : s.deliverTick.cycles = 0 := rfl
@[simp] theorem State.deliverTick_interval (s : State) :
    s.deliverTick.interval = s.config.tickDiv := rfl
@[simp] theorem State.deliverTick_expired (s : State) :
    s.deliverTick.expired = s.expired ++ 
      quadIndices.filter (fun i => (s.moves.get i).expiresNow && !s.expiryKnown i) := rfl
@[simp] theorem State.deliverTick_pendingExpiries (s : State) :
    s.deliverTick.pendingExpiries = s.pendingExpiries := rfl
@[simp] theorem State.deliverTick_sweep (s : State) : s.deliverTick.sweep = s.sweep := rfl
@[simp] theorem State.deliverTick_gate (s : State) : s.deliverTick.gate = s.gate := rfl
@[simp] theorem State.deliverTick_ports (s : State) : s.deliverTick.ports = s.ports := rfl
@[simp] theorem State.deliverTick_portDomains (s : State) :
    s.deliverTick.portDomains = s.portDomains := rfl
@[simp] theorem State.deliverTick_responses (s : State) :
    s.deliverTick.responses = s.responses := rfl
@[simp] theorem State.deliverTick_acks (s : State) : s.deliverTick.acks = s.acks := rfl

/-! ### endMove -/

@[simp] theorem State.endMove_pending (s : State) (n : Nat) (b : Word) (i : Fin 4) (m : MoveEntry) :
    (s.endMove n b i m).pending = s.pending := rfl
@[simp] theorem State.endMove_phase (s : State) (n : Nat) (b : Word) (i : Fin 4) (m : MoveEntry) :
    (s.endMove n b i m).phase = s.phase := rfl
@[simp] theorem State.endMove_records (s : State) (n : Nat) (b : Word) (i : Fin 4) (m : MoveEntry) :
    (s.endMove n b i m).records = putRecord s.records n ((s.record n).endMove b) := rfl
@[simp] theorem State.endMove_freeQueue (s : State) (n : Nat) (b : Word) (i : Fin 4) (m : MoveEntry) :
    (s.endMove n b i m).freeQueue = s.freeQueue := rfl
@[simp] theorem State.endMove_wornCount (s : State) (n : Nat) (b : Word) (i : Fin 4) (m : MoveEntry) :
    (s.endMove n b i m).wornCount = s.wornCount := rfl
@[simp] theorem State.endMove_lastGranted (s : State) (n : Nat) (b : Word) (i : Fin 4) (m : MoveEntry) :
    (s.endMove n b i m).lastGranted = s.lastGranted := rfl
@[simp] theorem State.endMove_cache (s : State) (n : Nat) (b : Word) (i : Fin 4) (m : MoveEntry) :
    (s.endMove n b i m).cache = s.cache := rfl
@[simp] theorem State.endMove_epoch (s : State) (n : Nat) (b : Word) (i : Fin 4) (m : MoveEntry) :
    (s.endMove n b i m).epoch = s.epoch := rfl
@[simp] theorem State.endMove_cmd (s : State) (n : Nat) (b : Word) (i : Fin 4) (m : MoveEntry) :
    (s.endMove n b i m).cmd = s.cmd := rfl
@[simp] theorem State.endMove_args (s : State) (n : Nat) (b : Word) (i : Fin 4) (m : MoveEntry) :
    (s.endMove n b i m).args = s.args := rfl
@[simp] theorem State.endMove_results (s : State) (n : Nat) (b : Word) (i : Fin 4) (m : MoveEntry) :
    (s.endMove n b i m).results = s.results := rfl
@[simp] theorem State.endMove_lastOutcome (s : State) (n : Nat) (b : Word) (i : Fin 4) (m : MoveEntry) :
    (s.endMove n b i m).lastOutcome = s.lastOutcome := rfl
@[simp] theorem State.endMove_lastCommand (s : State) (n : Nat) (b : Word) (i : Fin 4) (m : MoveEntry) :
    (s.endMove n b i m).lastCommand = s.lastCommand := rfl
@[simp] theorem State.endMove_events (s : State) (n : Nat) (b : Word) (i : Fin 4) (m : MoveEntry) :
    (s.endMove n b i m).events = s.events := rfl
@[simp] theorem State.endMove_eventEnable (s : State) (n : Nat) (b : Word) (i : Fin 4) (m : MoveEntry) :
    (s.endMove n b i m).eventEnable = s.eventEnable := rfl
@[simp] theorem State.endMove_config (s : State) (n : Nat) (b : Word) (i : Fin 4) (m : MoveEntry) :
    (s.endMove n b i m).config = s.config := rfl
@[simp] theorem State.endMove_engineA (s : State) (n : Nat) (b : Word) (i : Fin 4) (m : MoveEntry) :
    (s.endMove n b i m).engineA = s.engineA := rfl
@[simp] theorem State.endMove_engineB (s : State) (n : Nat) (b : Word) (i : Fin 4) (m : MoveEntry) :
    (s.endMove n b i m).engineB = s.engineB := rfl
@[simp] theorem State.endMove_lookupQueue (s : State) (n : Nat) (b : Word) (i : Fin 4) (m : MoveEntry) :
    (s.endMove n b i m).lookupQueue = s.lookupQueue := rfl
@[simp] theorem State.endMove_releaseQueue (s : State) (n : Nat) (b : Word) (i : Fin 4) (m : MoveEntry) :
    (s.endMove n b i m).releaseQueue = s.releaseQueue ++ waitingFor s.parkList n := rfl
@[simp] theorem State.endMove_moves (s : State) (n : Nat) (b : Word) (i : Fin 4) (m : MoveEntry) :
    (s.endMove n b i m).moves = s.moves.set i m := rfl
@[simp] theorem State.endMove_parkList (s : State) (n : Nat) (b : Word) (i : Fin 4) (m : MoveEntry) :
    (s.endMove n b i m).parkList = s.parkList.filter (fun p => p.slot != n) := rfl
@[simp] theorem State.endMove_cycles (s : State) (n : Nat) (b : Word) (i : Fin 4) (m : MoveEntry) :
    (s.endMove n b i m).cycles = s.cycles := rfl
@[simp] theorem State.endMove_interval (s : State) (n : Nat) (b : Word) (i : Fin 4) (m : MoveEntry) :
    (s.endMove n b i m).interval = s.interval := rfl
@[simp] theorem State.endMove_expired (s : State) (n : Nat) (b : Word) (i : Fin 4) (m : MoveEntry) :
    (s.endMove n b i m).expired = s.expired := rfl
@[simp] theorem State.endMove_pendingExpiries (s : State) (n : Nat) (b : Word) (i : Fin 4) (m : MoveEntry) :
    (s.endMove n b i m).pendingExpiries = s.pendingExpiries := rfl
@[simp] theorem State.endMove_sweep (s : State) (n : Nat) (b : Word) (i : Fin 4) (m : MoveEntry) :
    (s.endMove n b i m).sweep = s.sweep := rfl
@[simp] theorem State.endMove_gate (s : State) (n : Nat) (b : Word) (i : Fin 4) (m : MoveEntry) :
    (s.endMove n b i m).gate = s.gate := rfl
@[simp] theorem State.endMove_ports (s : State) (n : Nat) (b : Word) (i : Fin 4) (m : MoveEntry) :
    (s.endMove n b i m).ports = s.ports := rfl
@[simp] theorem State.endMove_portDomains (s : State) (n : Nat) (b : Word) (i : Fin 4) (m : MoveEntry) :
    (s.endMove n b i m).portDomains = s.portDomains := rfl
@[simp] theorem State.endMove_responses (s : State) (n : Nat) (b : Word) (i : Fin 4) (m : MoveEntry) :
    (s.endMove n b i m).responses = s.responses := rfl
@[simp] theorem State.endMove_acks (s : State) (n : Nat) (b : Word) (i : Fin 4) (m : MoveEntry) :
    (s.endMove n b i m).acks = s.acks := rfl

/-! ### openMove -/

@[simp] theorem State.openMove_pending (s : State) (h : Handle) (o : Object) (i : Fin 4) (b : Word) :
    (s.openMove h o i b).pending = s.pending := rfl
@[simp] theorem State.openMove_phase (s : State) (h : Handle) (o : Object) (i : Fin 4) (b : Word) :
    (s.openMove h o i b).phase = s.phase := rfl
@[simp] theorem State.openMove_records (s : State) (h : Handle) (o : Object) (i : Fin 4) (b : Word) :
    (s.openMove h o i b).records = putRecord s.records h.slot (.moving h.gen o) := rfl
@[simp] theorem State.openMove_freeQueue (s : State) (h : Handle) (o : Object) (i : Fin 4) (b : Word) :
    (s.openMove h o i b).freeQueue = s.freeQueue := rfl
@[simp] theorem State.openMove_wornCount (s : State) (h : Handle) (o : Object) (i : Fin 4) (b : Word) :
    (s.openMove h o i b).wornCount = s.wornCount := rfl
@[simp] theorem State.openMove_lastGranted (s : State) (h : Handle) (o : Object) (i : Fin 4) (b : Word) :
    (s.openMove h o i b).lastGranted = s.lastGranted := rfl
@[simp] theorem State.openMove_cache (s : State) (h : Handle) (o : Object) (i : Fin 4) (b : Word) :
    (s.openMove h o i b).cache = cacheDropFinal s.cache h.slot := rfl
@[simp] theorem State.openMove_epoch (s : State) (h : Handle) (o : Object) (i : Fin 4) (b : Word) :
    (s.openMove h o i b).epoch = s.epoch := rfl
@[simp] theorem State.openMove_cmd (s : State) (h : Handle) (o : Object) (i : Fin 4) (b : Word) :
    (s.openMove h o i b).cmd = s.cmd := rfl
@[simp] theorem State.openMove_args (s : State) (h : Handle) (o : Object) (i : Fin 4) (b : Word) :
    (s.openMove h o i b).args = s.args := rfl
@[simp] theorem State.openMove_results (s : State) (h : Handle) (o : Object) (i : Fin 4) (b : Word) :
    (s.openMove h o i b).results = s.results := rfl
@[simp] theorem State.openMove_lastOutcome (s : State) (h : Handle) (o : Object) (i : Fin 4) (b : Word) :
    (s.openMove h o i b).lastOutcome = s.lastOutcome := rfl
@[simp] theorem State.openMove_lastCommand (s : State) (h : Handle) (o : Object) (i : Fin 4) (b : Word) :
    (s.openMove h o i b).lastCommand = s.lastCommand := rfl
@[simp] theorem State.openMove_events (s : State) (h : Handle) (o : Object) (i : Fin 4) (b : Word) :
    (s.openMove h o i b).events = s.events := rfl
@[simp] theorem State.openMove_eventEnable (s : State) (h : Handle) (o : Object) (i : Fin 4) (b : Word) :
    (s.openMove h o i b).eventEnable = s.eventEnable := rfl
@[simp] theorem State.openMove_config (s : State) (h : Handle) (o : Object) (i : Fin 4) (b : Word) :
    (s.openMove h o i b).config = s.config := rfl
@[simp] theorem State.openMove_engineA (s : State) (h : Handle) (o : Object) (i : Fin 4) (b : Word) :
    (s.openMove h o i b).engineA = s.engineA := rfl
@[simp] theorem State.openMove_engineB (s : State) (h : Handle) (o : Object) (i : Fin 4) (b : Word) :
    (s.openMove h o i b).engineB = s.engineB := rfl
@[simp] theorem State.openMove_lookupQueue (s : State) (h : Handle) (o : Object) (i : Fin 4) (b : Word) :
    (s.openMove h o i b).lookupQueue = s.lookupQueue := rfl
@[simp] theorem State.openMove_releaseQueue (s : State) (h : Handle) (o : Object) (i : Fin 4) (b : Word) :
    (s.openMove h o i b).releaseQueue = s.releaseQueue := rfl
@[simp] theorem State.openMove_moves (s : State) (h : Handle) (o : Object) (i : Fin 4) (b : Word) :
    (s.openMove h o i b).moves = s.moves.set i (.copying h.slot b s.config.moveWindow) := rfl
@[simp] theorem State.openMove_parkList (s : State) (h : Handle) (o : Object) (i : Fin 4) (b : Word) :
    (s.openMove h o i b).parkList = s.parkList := rfl
@[simp] theorem State.openMove_cycles (s : State) (h : Handle) (o : Object) (i : Fin 4) (b : Word) :
    (s.openMove h o i b).cycles = s.cycles := rfl
@[simp] theorem State.openMove_interval (s : State) (h : Handle) (o : Object) (i : Fin 4) (b : Word) :
    (s.openMove h o i b).interval = s.interval := rfl
@[simp] theorem State.openMove_expired (s : State) (h : Handle) (o : Object) (i : Fin 4) (b : Word) :
    (s.openMove h o i b).expired = s.expired := rfl
@[simp] theorem State.openMove_pendingExpiries (s : State) (h : Handle) (o : Object) (i : Fin 4) (b : Word) :
    (s.openMove h o i b).pendingExpiries = s.pendingExpiries := rfl
@[simp] theorem State.openMove_sweep (s : State) (h : Handle) (o : Object) (i : Fin 4) (b : Word) :
    (s.openMove h o i b).sweep = s.sweep := rfl
@[simp] theorem State.openMove_gate (s : State) (h : Handle) (o : Object) (i : Fin 4) (b : Word) :
    (s.openMove h o i b).gate = s.gate := rfl
@[simp] theorem State.openMove_ports (s : State) (h : Handle) (o : Object) (i : Fin 4) (b : Word) :
    (s.openMove h o i b).ports = s.ports := rfl
@[simp] theorem State.openMove_portDomains (s : State) (h : Handle) (o : Object) (i : Fin 4) (b : Word) :
    (s.openMove h o i b).portDomains = s.portDomains := rfl
@[simp] theorem State.openMove_responses (s : State) (h : Handle) (o : Object) (i : Fin 4) (b : Word) :
    (s.openMove h o i b).responses = s.responses := rfl
@[simp] theorem State.openMove_acks (s : State) (h : Handle) (o : Object) (i : Fin 4) (b : Word) :
    (s.openMove h o i b).acks = s.acks := rfl

/-! ### endSweep -/

@[simp] theorem State.endSweep_record (s : State) (k : EndKind) (slot : Nat) :
    (s.endSweep k).record slot = s.record slot := rfl
@[simp] theorem State.endSweep_pending (s : State) (k : EndKind) :
    (s.endSweep k).pending = s.pending := rfl
@[simp] theorem State.endSweep_phase (s : State) (k : EndKind) :
    (s.endSweep k).phase = s.phase := rfl
@[simp] theorem State.endSweep_records (s : State) (k : EndKind) :
    (s.endSweep k).records = s.records := rfl
@[simp] theorem State.endSweep_freeQueue (s : State) (k : EndKind) :
    (s.endSweep k).freeQueue = s.freeQueue := rfl
@[simp] theorem State.endSweep_wornCount (s : State) (k : EndKind) :
    (s.endSweep k).wornCount = s.wornCount := rfl
@[simp] theorem State.endSweep_lastGranted (s : State) (k : EndKind) :
    (s.endSweep k).lastGranted = s.lastGranted := rfl
@[simp] theorem State.endSweep_cache (s : State) (k : EndKind) :
    (s.endSweep k).cache = s.cache := rfl
@[simp] theorem State.endSweep_epoch (s : State) (k : EndKind) :
    (s.endSweep k).epoch = s.epoch := rfl
@[simp] theorem State.endSweep_cmd (s : State) (k : EndKind) : (s.endSweep k).cmd = s.cmd := rfl
@[simp] theorem State.endSweep_args (s : State) (k : EndKind) : (s.endSweep k).args = s.args := rfl
@[simp] theorem State.endSweep_results (s : State) (k : EndKind) :
    (s.endSweep k).results = s.results := rfl
@[simp] theorem State.endSweep_lastOutcome (s : State) (k : EndKind) :
    (s.endSweep k).lastOutcome = s.lastOutcome := rfl
@[simp] theorem State.endSweep_lastCommand (s : State) (k : EndKind) :
    (s.endSweep k).lastCommand = s.lastCommand := rfl
@[simp] theorem State.endSweep_events (s : State) (k : EndKind) :
    (s.endSweep k).events = raised s.events .sweepEnd := rfl
@[simp] theorem State.endSweep_eventEnable (s : State) (k : EndKind) :
    (s.endSweep k).eventEnable = s.eventEnable := rfl
@[simp] theorem State.endSweep_config (s : State) (k : EndKind) :
    (s.endSweep k).config = s.config := rfl
@[simp] theorem State.endSweep_engineA (s : State) (k : EndKind) :
    (s.endSweep k).engineA = s.engineA := rfl
@[simp] theorem State.endSweep_engineB (s : State) (k : EndKind) :
    (s.endSweep k).engineB = s.engineB := rfl
@[simp] theorem State.endSweep_lookupQueue (s : State) (k : EndKind) :
    (s.endSweep k).lookupQueue = s.lookupQueue := rfl
@[simp] theorem State.endSweep_releaseQueue (s : State) (k : EndKind) :
    (s.endSweep k).releaseQueue = s.releaseQueue := rfl
@[simp] theorem State.endSweep_moves (s : State) (k : EndKind) :
    (s.endSweep k).moves = s.moves := rfl
@[simp] theorem State.endSweep_parkList (s : State) (k : EndKind) :
    (s.endSweep k).parkList = s.parkList := rfl
@[simp] theorem State.endSweep_cycles (s : State) (k : EndKind) :
    (s.endSweep k).cycles = s.cycles := rfl
@[simp] theorem State.endSweep_interval (s : State) (k : EndKind) :
    (s.endSweep k).interval = s.interval := rfl
@[simp] theorem State.endSweep_expired (s : State) (k : EndKind) :
    (s.endSweep k).expired = s.expired := rfl
@[simp] theorem State.endSweep_pendingExpiries (s : State) (k : EndKind) :
    (s.endSweep k).pendingExpiries = s.pendingExpiries := rfl
@[simp] theorem State.endSweep_sweep (s : State) (k : EndKind) :
    (s.endSweep k).sweep = { s.sweep with state := .idle, endKind := k } := rfl
@[simp] theorem State.endSweep_gate (s : State) (k : EndKind) : (s.endSweep k).gate = s.gate := rfl
@[simp] theorem State.endSweep_ports (s : State) (k : EndKind) :
    (s.endSweep k).ports = s.ports := rfl
@[simp] theorem State.endSweep_portDomains (s : State) (k : EndKind) :
    (s.endSweep k).portDomains = s.portDomains := rfl
@[simp] theorem State.endSweep_responses (s : State) (k : EndKind) :
    (s.endSweep k).responses = s.responses := rfl
@[simp] theorem State.endSweep_acks (s : State) (k : EndKind) : (s.endSweep k).acks = s.acks := rfl

end Sys2Proof.Machine
end

