-- ==== Sys2Proof/Laws/Ops.lean ====
section
/-! SUPPORT. What the shared operations can do, said once each: quads, the Record Store, the cache, the
grant, submissions and accesses. Proofs about the meanings cite these and unfold no operation. -/

namespace Sys2Proof.Machine

open Sys2Proof

/-! ### Quads -/

@[simp] theorem Quad.get_set_same {α : Type} (q : Quad α) (i : Fin 4) (x : α) :
    (q.set i x).get i = x := by
  fin_cases i <;> rfl

theorem Quad.get_set_other {α : Type} (q : Quad α) (i j : Fin 4) (x : α) (h : j ≠ i) :
    (q.set i x).get j = q.get j := by
  fin_cases i <;> fin_cases j <;> first | rfl | exact absurd rfl h

theorem Quad.get_set {α : Type} (q : Quad α) (i j : Fin 4) (x : α) :
    (q.set i x).get j = if j = i then x else q.get j := by
  split
  · next h => rw [h, Quad.get_set_same]
  · next h => exact Quad.get_set_other q i j x h

/-- A quad is its four elements. -/
theorem Quad.ext_get {α : Type} (p q : Quad α) (h : ∀ i, p.get i = q.get i) : p = q := by
  have h0 := h 0
  have h1 := h 1
  have h2 := h 2
  have h3 := h 3
  cases p
  cases q
  simp_all [Quad.get]

/-- The search finds nothing exactly when no element passes the test. -/
theorem Quad.find_eq_none {α : Type} (q : Quad α) (p : α → Bool) :
    q.find p = none ↔ ∀ i, p (q.get i) = false := by
  simp [Quad.find, quadIndices, Fin.forall_fin_succ]

/-- The search finds the lowest number whose element passes the test. -/
theorem Quad.find_eq_some {α : Type} (q : Quad α) (p : α → Bool) (i : Fin 4) :
    q.find p = some i ↔ p (q.get i) = true ∧ ∀ j, j < i → p (q.get j) = false := by
  simp only [Quad.find, quadIndices, List.find?_cons, List.find?_nil, Fin.forall_fin_succ]
  fin_cases i <;>
    (rcases p0 : p (q.get 0) <;> rcases p1 : p (q.get 1) <;> rcases p2 : p (q.get 2) <;>
      rcases p3 : p (q.get 3) <;> simp_all [Fin.lt_def])

/-! ### The Record Store -/

theorem recordIn_eraseSlot_same (m : Store) (n : Nat) : recordIn (eraseSlot m n) n = resetRecord := by
  induction m with
  | nil => rfl
  | cons e rest ih =>
    obtain ⟨k, q⟩ := e
    by_cases h : k = n
    · simpa [eraseSlot, h] using ih
    · have : eraseSlot ((k, q) :: rest) n = (k, q) :: eraseSlot rest n := by simp [eraseSlot, h]
      rw [this]
      simpa [recordIn, h] using ih

theorem recordIn_eraseSlot_other (m : Store) (n k : Nat) (h : k ≠ n) :
    recordIn (eraseSlot m n) k = recordIn m k := by
  induction m with
  | nil => rfl
  | cons e rest ih =>
    obtain ⟨j, q⟩ := e
    by_cases hj : j = n
    · have hjk : j ≠ k := fun c => h (c ▸ hj)
      have : eraseSlot ((j, q) :: rest) n = eraseSlot rest n := by simp [eraseSlot, hj]
      rw [this, ih, recordIn, if_neg hjk]
    · have : eraseSlot ((j, q) :: rest) n = (j, q) :: eraseSlot rest n := by simp [eraseSlot, hj]
      rw [this, recordIn, recordIn, ih]

theorem recordIn_insertSlot_same (m : Store) (n : Nat) (r : Record) (h : ∀ e ∈ m, e.1 ≠ n) :
    recordIn (insertSlot m n r) n = r := by
  induction m with
  | nil => simp [insertSlot, recordIn]
  | cons e rest ih =>
    obtain ⟨k, q⟩ := e
    have hk : k ≠ n := h (k, q) (by simp)
    rw [insertSlot]
    split
    · simp [recordIn]
    · rw [recordIn, if_neg hk]
      exact ih fun e he => h e (by simp [he])

theorem recordIn_insertSlot_other (m : Store) (n k : Nat) (r : Record) (h : k ≠ n) :
    recordIn (insertSlot m n r) k = recordIn m k := by
  induction m with
  | nil => simp [insertSlot, recordIn, Ne.symm h]
  | cons e rest ih =>
    obtain ⟨j, q⟩ := e
    rw [insertSlot]
    split
    · simp [recordIn, Ne.symm h]
    · rw [recordIn, recordIn, ih]

theorem eraseSlot_lacks (m : Store) (n : Nat) : ∀ e ∈ eraseSlot m n, e.1 ≠ n := by
  intro e he
  simpa [eraseSlot] using (List.mem_filter.mp he).2

/-- The written slot reads as written. -/
@[simp] theorem recordIn_putRecord_same (m : Store) (n : Nat) (r : Record) :
    recordIn (putRecord m n r) n = r := by
  rw [putRecord]
  split
  · next h => rw [recordIn_eraseSlot_same, h]
  · exact recordIn_insertSlot_same _ n r (eraseSlot_lacks m n)

/-- Every other slot reads as before. -/
theorem recordIn_putRecord_other (m : Store) (n k : Nat) (r : Record) (h : k ≠ n) :
    recordIn (putRecord m n r) k = recordIn m k := by
  rw [putRecord]
  split
  · exact recordIn_eraseSlot_other m n k h
  · rw [recordIn_insertSlot_other _ n k r h, recordIn_eraseSlot_other m n k h]

theorem recordIn_putRecord (m : Store) (n k : Nat) (r : Record) :
    recordIn (putRecord m n r) k = if k = n then r else recordIn m k := by
  split
  · next h => rw [h, recordIn_putRecord_same]
  · next h => exact recordIn_putRecord_other m n k r h

theorem storeRises_mono (low high : Nat) (m : Store) (h : low ≤ high) (hm : storeRises high m = true) :
    storeRises low m = true := by
  cases m with
  | nil => rfl
  | cons e rest =>
    obtain ⟨k, r⟩ := e
    simp only [storeRises, Bool.and_eq_true, decide_eq_true_eq] at hm ⊢
    exact ⟨⟨le_trans h hm.1.1, hm.1.2⟩, hm.2⟩

theorem storeRises_erase (low n : Nat) (m : Store) (hm : storeRises low m = true) :
    storeRises low (eraseSlot m n) = true := by
  induction m generalizing low with
  | nil => rfl
  | cons e rest ih =>
    obtain ⟨k, r⟩ := e
    simp only [storeRises, Bool.and_eq_true, decide_eq_true_eq] at hm
    by_cases h : k = n
    · have hd : eraseSlot ((k, r) :: rest) n = eraseSlot rest n := by simp [eraseSlot, h]
      rw [hd]
      exact storeRises_mono low (k + 1) _ (by omega) (ih (k + 1) hm.2)
    · have hd : eraseSlot ((k, r) :: rest) n = (k, r) :: eraseSlot rest n := by simp [eraseSlot, h]
      rw [hd]
      simp only [storeRises, Bool.and_eq_true, decide_eq_true_eq]
      exact ⟨hm.1, ih (k + 1) hm.2⟩

theorem storeRises_insert (low n : Nat) (r : Record) (m : Store) (hr : r ≠ resetRecord) (hn : low ≤ n)
    (hl : ∀ e ∈ m, e.1 ≠ n) (hm : storeRises low m = true) :
    storeRises low (insertSlot m n r) = true := by
  induction m generalizing low with
  | nil => simp [insertSlot, storeRises, hr, hn]
  | cons e rest ih =>
    obtain ⟨k, q⟩ := e
    have hk : k ≠ n := hl (k, q) (by simp)
    simp only [storeRises, Bool.and_eq_true, decide_eq_true_eq] at hm
    rw [insertSlot]
    split
    · next h =>
      simp only [storeRises, Bool.and_eq_true, decide_eq_true_eq]
      exact ⟨⟨hn, by simpa using hr⟩, ⟨by omega, hm.1.2⟩, hm.2⟩
    · next h =>
      simp only [storeRises, Bool.and_eq_true, decide_eq_true_eq]
      exact ⟨hm.1, ih (k + 1) (by omega) (fun e he => hl e (by simp [he])) hm.2⟩

/-- Every write keeps the canonical form of the Record Store. -/
theorem Store.wf_putRecord (m : Store) (n : Nat) (r : Record) (h : Store.wf m = true) :
    Store.wf (putRecord m n r) = true := by
  rw [Store.wf] at *
  rw [putRecord]
  split
  · exact storeRises_erase 0 n m h
  · next hr =>
    exact storeRises_insert 0 n r _ hr (Nat.zero_le n) (eraseSlot_lacks m n) (storeRises_erase 0 n m h)

/-- The empty store, at reset and after a clear, is canonical and reads as the reset record. -/
@[simp] theorem Store.wf_nil : Store.wf [] = true := rfl

@[simp] theorem recordIn_nil (n : Nat) : recordIn [] n = resetRecord := rfl

/-- A record is read from the Record Store alone. -/
theorem State.record_eq (s : State) (n : Nat) : s.record n = recordIn s.records n := rfl

@[simp] theorem State.record_setRecord_same (s : State) (n : Nat) (r : Record) :
    (s.setRecord n r).record n = r := recordIn_putRecord_same s.records n r

theorem State.record_setRecord_other (s : State) (n k : Nat) (r : Record) (h : k ≠ n) :
    (s.setRecord n r).record k = s.record k := recordIn_putRecord_other s.records n k r h

theorem State.record_setRecord (s : State) (n k : Nat) (r : Record) :
    (s.setRecord n r).record k = if k = n then r else s.record k := recordIn_putRecord s.records n k r

/-! ### The Resolution Cache -/

theorem mem_cacheDropFinal (c : List CacheEntry) (n : Nat) (e : CacheEntry) :
    e ∈ cacheDropFinal c n ↔ e ∈ c ∧ e.final.slot ≠ n := by
  simp [cacheDropFinal]

theorem mem_cacheDropOrigin (c : List CacheEntry) (h : Handle) (e : CacheEntry) :
    e ∈ cacheDropOrigin c h ↔ e ∈ c ∧ e.origin ≠ h := by
  simp [cacheDropOrigin]

/-- After a fill every entry is the new one or an old one of another origin. -/
theorem mem_cacheFill (c : List CacheEntry) (e f : CacheEntry) (h : f ∈ cacheFill c e) :
    f = e ∨ (f ∈ c ∧ f.origin ≠ e.origin) := by
  have := List.mem_of_mem_take h
  simpa [mem_cacheDropOrigin] using this

/-- After a hit every entry is the hit one or an old one of another origin. -/
theorem mem_cacheTouch (c : List CacheEntry) (e f : CacheEntry) :
    f ∈ cacheTouch c e ↔ f = e ∨ (f ∈ c ∧ f.origin ≠ e.origin) := by
  simp [cacheTouch, mem_cacheDropOrigin]

/-- A fill leaves at most 32 entries. -/
theorem length_cacheFill (c : List CacheEntry) (e : CacheEntry) : (cacheFill c e).length ≤ 32 := by
  simp [cacheFill]

/-- A probe finds an entry of its own origin. -/
theorem cacheFind_some (c : List CacheEntry) (h : Handle) (e : CacheEntry)
    (hf : cacheFind c h = some e) : e ∈ c ∧ e.origin = h := by
  have h1 := List.mem_of_find?_eq_some hf
  have h2 := List.find?_some hf
  exact ⟨h1, by simpa using h2⟩

theorem cacheFind_none (c : List CacheEntry) (h : Handle) :
    cacheFind c h = none ↔ ∀ e ∈ c, e.origin ≠ h := by
  simp [cacheFind]

/-! ### The grant -/

/-- No client is granted while a reset is in progress (R43). -/
theorem State.granted_none (s : State) (h : s.phase ≠ .running) : s.granted = none := by
  simp [State.granted, h]

/-- The Move Timer waits while an expiry is pending or noted (R39, R103). -/
@[simp] theorem State.waiting_moveTimer (s : State) :
    s.waiting .moveTimer = true ↔ s.pendingExpiries ≠ [] ∨ s.expired ≠ [] := by
  cases h : s.pendingExpiries <;> cases k : s.expired <;> simp [State.waiting, State.expiries, h, k]

/-- Whether an expiry of an entry waits for its access (R103). -/
@[simp] theorem State.expiryKnown_iff (s : State) (i : Fin 4) :
    s.expiryKnown i = true ↔ i ∈ s.pendingExpiries ∨ i ∈ s.expired := by
  simp [State.expiryKnown, State.expiries]

/-- The granted client has a request waiting (R40). -/
theorem State.granted_waiting (s : State) (c : Client) (h : s.granted = some c) :
    s.phase = .running ∧ s.waiting c = true := by
  rw [State.granted] at h
  split at h
  · next hp => exact ⟨hp, List.find?_some h⟩
  · exact absurd h (by simp)

/-- The client a walk engine is names it. -/
@[simp] theorem walkerClient_engine (e : EngineId) :
    Safety.walkerClient (.engine e) = engineClient e := by
  cases e <;> rfl

/-! ### Accesses and submissions -/

/-- An access that is granted happens. -/
theorem State.access_granted (s : State) (c : Client) (body : State → State) (h : s.granted = some c) :
    s.access c body = body (s.grant c) := by
  rw [State.access, if_pos h]

/-- An access that is not granted changes nothing (log 2). -/
theorem State.access_ungranted (s : State) (c : Client) (body : State → State)
    (h : s.granted ≠ some c) : s.access c body = s := by
  rw [State.access, if_neg h]

/-- Everything an access can do: nothing, or its body on the state with the new last client. -/
theorem State.access_cases (s : State) (c : Client) (body : State → State) :
    s.access c body = s ∨ (s.granted = some c ∧ s.access c body = body (s.grant c)) := by
  by_cases h : s.granted = some c
  · exact Or.inr ⟨h, s.access_granted c body h⟩
  · exact Or.inl (s.access_ungranted c body h)

/-- The single access of the command in progress, when granted. -/
theorem State.commandAccess_served (s : State) (k : Cmd) (args : Quad Word)
    (body : Quad Word → State → State) (h : Safety.ServesSingle s k args) :
    s.commandAccess k body = body args (s.grant .commandUnit) := by
  simp [State.commandAccess, h.1, State.access, h.2]

/-- Everything the single access of a command can do. -/
theorem State.commandAccess_cases (s : State) (k : Cmd) (body : Quad Word → State → State) :
    s.commandAccess k body = s
      ∨ ∃ args, Safety.ServesSingle s k args
          ∧ s.commandAccess k body = body args (s.grant .commandUnit) := by
  by_cases h : ∃ args, Safety.ServesSingle s k args
  · obtain ⟨args, ha⟩ := h
    exact Or.inr ⟨args, ha, s.commandAccess_served k args body ha⟩
  · refine Or.inl ?_
    rw [State.commandAccess]
    split
    · next c hc =>
      split
      · next hk =>
        refine s.access_ungranted _ _ fun hg => h ⟨c.args, ?_, hg⟩
        rw [hc, ← hk.1, ← hk.2]
      · rfl
    · rfl

/-- A COMMAND write when the part accepts it (R154). -/
theorem State.submit_accepting (s : State) (accept : Quad Word → State → State)
    (h : Safety.Accepting s) : s.submit accept = accept s.args s := by
  simp [State.submit, h.1, State.busy, h.2]

/-- Everything a COMMAND write can do: nothing, COLLIDE, or the acceptance. -/
theorem State.submit_cases (s : State) (accept : Quad Word → State → State) :
    s.submit accept = s ∨ s.submit accept = s.raise .collide
      ∨ (Safety.Accepting s ∧ s.submit accept = accept s.args s) := by
  rw [State.submit]
  cases hp : s.phase <;> simp only [true_or]
  cases hc : s.cmd with
  | none => simp [State.busy, hc, Safety.Accepting, hp]
  | some c => simp [State.busy, hc]

/-- A window write or link event outside the resets. -/
theorem State.whenRunning_running (s : State) (write : State → State) (h : s.phase = .running) :
    s.whenRunning write = write s := by
  rw [State.whenRunning, h]

/-- Everything such an event can do: nothing, or its effect. -/
theorem State.whenRunning_cases (s : State) (write : State → State) :
    s.whenRunning write = s ∨ (s.phase = .running ∧ s.whenRunning write = write s) := by
  cases h : s.phase <;> simp [State.whenRunning, h]

/-! ### The drain condition -/

/-- Everything the drain test can do: nothing, or the gate closed with LINK_QUIET (R149). -/
theorem State.testDrain_cases (s : State) :
    s.testDrain = s
      ∨ (s.gate = .draining ∧ s.drained = true
          ∧ s.testDrain = { s with gate := .closed, events := raised s.events .linkQuiet }) := by
  rw [State.testDrain]
  split
  · next h => exact Or.inr ⟨h.1, h.2, rfl⟩
  · exact Or.inl rfl

/-- The drain condition is an empty link and two IDLE engines (R149). -/
theorem State.drained_iff (s : State) :
    s.drained = true ↔ (∀ p, (s.ports.get p).tags = []) ∧ s.engineA = .idle ∧ s.engineB = .idle := by
  simp [State.drained, State.inFlight, Fin.forall_fin_succ, Quad.get, and_assoc]

/-- The model's drain test is the rule's. -/
theorem State.testDrain_eq (s : State) : s.testDrain = Safety.drainTested s := by
  rw [State.testDrain, Safety.drainTested]
  simp only [State.drained_iff]
  rfl

end Sys2Proof.Machine
end

