-- ==== Sys2Proof/Laws/Frames.lean ====
section
/-! SUPPORT. The fields that the operations with a choice in them never touch. -/

namespace Sys2Proof.Machine

open Sys2Proof

/-! ### testDrain -/

@[simp] theorem State.testDrain_pending (s : State) : s.testDrain.pending = s.pending := by
  rcases s.testDrain_cases with h | ⟨_, _, h⟩ <;> rw [h]
@[simp] theorem State.testDrain_phase (s : State) : s.testDrain.phase = s.phase := by
  rcases s.testDrain_cases with h | ⟨_, _, h⟩ <;> rw [h]
@[simp] theorem State.testDrain_records (s : State) : s.testDrain.records = s.records := by
  rcases s.testDrain_cases with h | ⟨_, _, h⟩ <;> rw [h]
@[simp] theorem State.testDrain_freeQueue (s : State) : s.testDrain.freeQueue = s.freeQueue := by
  rcases s.testDrain_cases with h | ⟨_, _, h⟩ <;> rw [h]
@[simp] theorem State.testDrain_wornCount (s : State) : s.testDrain.wornCount = s.wornCount := by
  rcases s.testDrain_cases with h | ⟨_, _, h⟩ <;> rw [h]
@[simp] theorem State.testDrain_lastGranted (s : State) : s.testDrain.lastGranted = s.lastGranted := by
  rcases s.testDrain_cases with h | ⟨_, _, h⟩ <;> rw [h]
@[simp] theorem State.testDrain_cache (s : State) : s.testDrain.cache = s.cache := by
  rcases s.testDrain_cases with h | ⟨_, _, h⟩ <;> rw [h]
@[simp] theorem State.testDrain_epoch (s : State) : s.testDrain.epoch = s.epoch := by
  rcases s.testDrain_cases with h | ⟨_, _, h⟩ <;> rw [h]
@[simp] theorem State.testDrain_cmd (s : State) : s.testDrain.cmd = s.cmd := by
  rcases s.testDrain_cases with h | ⟨_, _, h⟩ <;> rw [h]
@[simp] theorem State.testDrain_args (s : State) : s.testDrain.args = s.args := by
  rcases s.testDrain_cases with h | ⟨_, _, h⟩ <;> rw [h]
@[simp] theorem State.testDrain_results (s : State) : s.testDrain.results = s.results := by
  rcases s.testDrain_cases with h | ⟨_, _, h⟩ <;> rw [h]
@[simp] theorem State.testDrain_lastOutcome (s : State) : s.testDrain.lastOutcome = s.lastOutcome := by
  rcases s.testDrain_cases with h | ⟨_, _, h⟩ <;> rw [h]
@[simp] theorem State.testDrain_lastCommand (s : State) : s.testDrain.lastCommand = s.lastCommand := by
  rcases s.testDrain_cases with h | ⟨_, _, h⟩ <;> rw [h]
@[simp] theorem State.testDrain_eventEnable (s : State) : s.testDrain.eventEnable = s.eventEnable := by
  rcases s.testDrain_cases with h | ⟨_, _, h⟩ <;> rw [h]
@[simp] theorem State.testDrain_config (s : State) : s.testDrain.config = s.config := by
  rcases s.testDrain_cases with h | ⟨_, _, h⟩ <;> rw [h]
@[simp] theorem State.testDrain_engineA (s : State) : s.testDrain.engineA = s.engineA := by
  rcases s.testDrain_cases with h | ⟨_, _, h⟩ <;> rw [h]
@[simp] theorem State.testDrain_engineB (s : State) : s.testDrain.engineB = s.engineB := by
  rcases s.testDrain_cases with h | ⟨_, _, h⟩ <;> rw [h]
@[simp] theorem State.testDrain_lookupQueue (s : State) : s.testDrain.lookupQueue = s.lookupQueue := by
  rcases s.testDrain_cases with h | ⟨_, _, h⟩ <;> rw [h]
@[simp] theorem State.testDrain_releaseQueue (s : State) :
    s.testDrain.releaseQueue = s.releaseQueue := by
  rcases s.testDrain_cases with h | ⟨_, _, h⟩ <;> rw [h]
@[simp] theorem State.testDrain_moves (s : State) : s.testDrain.moves = s.moves := by
  rcases s.testDrain_cases with h | ⟨_, _, h⟩ <;> rw [h]
@[simp] theorem State.testDrain_parkList (s : State) : s.testDrain.parkList = s.parkList := by
  rcases s.testDrain_cases with h | ⟨_, _, h⟩ <;> rw [h]
@[simp] theorem State.testDrain_cycles (s : State) : s.testDrain.cycles = s.cycles := by
  rcases s.testDrain_cases with h | ⟨_, _, h⟩ <;> rw [h]
@[simp] theorem State.testDrain_interval (s : State) : s.testDrain.interval = s.interval := by
  rcases s.testDrain_cases with h | ⟨_, _, h⟩ <;> rw [h]
@[simp] theorem State.testDrain_expired (s : State) : s.testDrain.expired = s.expired := by
  rcases s.testDrain_cases with h | ⟨_, _, h⟩ <;> rw [h]
@[simp] theorem State.testDrain_pendingExpiries (s : State) :
    s.testDrain.pendingExpiries = s.pendingExpiries := by
  rcases s.testDrain_cases with h | ⟨_, _, h⟩ <;> rw [h]
@[simp] theorem State.testDrain_sweep (s : State) : s.testDrain.sweep = s.sweep := by
  rcases s.testDrain_cases with h | ⟨_, _, h⟩ <;> rw [h]
@[simp] theorem State.testDrain_ports (s : State) : s.testDrain.ports = s.ports := by
  rcases s.testDrain_cases with h | ⟨_, _, h⟩ <;> rw [h]
@[simp] theorem State.testDrain_portDomains (s : State) : s.testDrain.portDomains = s.portDomains := by
  rcases s.testDrain_cases with h | ⟨_, _, h⟩ <;> rw [h]
@[simp] theorem State.testDrain_responses (s : State) : s.testDrain.responses = s.responses := by
  rcases s.testDrain_cases with h | ⟨_, _, h⟩ <;> rw [h]
@[simp] theorem State.testDrain_acks (s : State) : s.testDrain.acks = s.acks := by
  rcases s.testDrain_cases with h | ⟨_, _, h⟩ <;> rw [h]
@[simp] theorem State.testDrain_record (s : State) (slot : Nat) :
    s.testDrain.record slot = s.record slot := by
  rw [State.record_eq, State.record_eq, State.testDrain_records]

/-! ### setEngine -/

@[simp] theorem State.setEngine_pending (s : State) (e : EngineId) (x : Engine) :
    (s.setEngine e x).pending = s.pending := by
  cases e <;> rfl
@[simp] theorem State.setEngine_phase (s : State) (e : EngineId) (x : Engine) :
    (s.setEngine e x).phase = s.phase := by
  cases e <;> rfl
@[simp] theorem State.setEngine_records (s : State) (e : EngineId) (x : Engine) :
    (s.setEngine e x).records = s.records := by
  cases e <;> rfl
@[simp] theorem State.setEngine_freeQueue (s : State) (e : EngineId) (x : Engine) :
    (s.setEngine e x).freeQueue = s.freeQueue := by
  cases e <;> rfl
@[simp] theorem State.setEngine_wornCount (s : State) (e : EngineId) (x : Engine) :
    (s.setEngine e x).wornCount = s.wornCount := by
  cases e <;> rfl
@[simp] theorem State.setEngine_lastGranted (s : State) (e : EngineId) (x : Engine) :
    (s.setEngine e x).lastGranted = s.lastGranted := by
  cases e <;> rfl
@[simp] theorem State.setEngine_cache (s : State) (e : EngineId) (x : Engine) :
    (s.setEngine e x).cache = s.cache := by
  cases e <;> rfl
@[simp] theorem State.setEngine_epoch (s : State) (e : EngineId) (x : Engine) :
    (s.setEngine e x).epoch = s.epoch := by
  cases e <;> rfl
@[simp] theorem State.setEngine_cmd (s : State) (e : EngineId) (x : Engine) :
    (s.setEngine e x).cmd = s.cmd := by
  cases e <;> rfl
@[simp] theorem State.setEngine_args (s : State) (e : EngineId) (x : Engine) :
    (s.setEngine e x).args = s.args := by
  cases e <;> rfl
@[simp] theorem State.setEngine_results (s : State) (e : EngineId) (x : Engine) :
    (s.setEngine e x).results = s.results := by
  cases e <;> rfl
@[simp] theorem State.setEngine_lastOutcome (s : State) (e : EngineId) (x : Engine) :
    (s.setEngine e x).lastOutcome = s.lastOutcome := by
  cases e <;> rfl
@[simp] theorem State.setEngine_lastCommand (s : State) (e : EngineId) (x : Engine) :
    (s.setEngine e x).lastCommand = s.lastCommand := by
  cases e <;> rfl
@[simp] theorem State.setEngine_events (s : State) (e : EngineId) (x : Engine) :
    (s.setEngine e x).events = s.events := by
  cases e <;> rfl
@[simp] theorem State.setEngine_eventEnable (s : State) (e : EngineId) (x : Engine) :
    (s.setEngine e x).eventEnable = s.eventEnable := by
  cases e <;> rfl
@[simp] theorem State.setEngine_config (s : State) (e : EngineId) (x : Engine) :
    (s.setEngine e x).config = s.config := by
  cases e <;> rfl
@[simp] theorem State.setEngine_lookupQueue (s : State) (e : EngineId) (x : Engine) :
    (s.setEngine e x).lookupQueue = s.lookupQueue := by
  cases e <;> rfl
@[simp] theorem State.setEngine_releaseQueue (s : State) (e : EngineId) (x : Engine) :
    (s.setEngine e x).releaseQueue = s.releaseQueue := by
  cases e <;> rfl
@[simp] theorem State.setEngine_moves (s : State) (e : EngineId) (x : Engine) :
    (s.setEngine e x).moves = s.moves := by
  cases e <;> rfl
@[simp] theorem State.setEngine_parkList (s : State) (e : EngineId) (x : Engine) :
    (s.setEngine e x).parkList = s.parkList := by
  cases e <;> rfl
@[simp] theorem State.setEngine_cycles (s : State) (e : EngineId) (x : Engine) :
    (s.setEngine e x).cycles = s.cycles := by
  cases e <;> rfl
@[simp] theorem State.setEngine_interval (s : State) (e : EngineId) (x : Engine) :
    (s.setEngine e x).interval = s.interval := by
  cases e <;> rfl
@[simp] theorem State.setEngine_expired (s : State) (e : EngineId) (x : Engine) :
    (s.setEngine e x).expired = s.expired := by
  cases e <;> rfl
@[simp] theorem State.setEngine_pendingExpiries (s : State) (e : EngineId) (x : Engine) :
    (s.setEngine e x).pendingExpiries = s.pendingExpiries := by
  cases e <;> rfl
@[simp] theorem State.setEngine_sweep (s : State) (e : EngineId) (x : Engine) :
    (s.setEngine e x).sweep = s.sweep := by
  cases e <;> rfl
@[simp] theorem State.setEngine_gate (s : State) (e : EngineId) (x : Engine) :
    (s.setEngine e x).gate = s.gate := by
  cases e <;> rfl
@[simp] theorem State.setEngine_ports (s : State) (e : EngineId) (x : Engine) :
    (s.setEngine e x).ports = s.ports := by
  cases e <;> rfl
@[simp] theorem State.setEngine_portDomains (s : State) (e : EngineId) (x : Engine) :
    (s.setEngine e x).portDomains = s.portDomains := by
  cases e <;> rfl
@[simp] theorem State.setEngine_responses (s : State) (e : EngineId) (x : Engine) :
    (s.setEngine e x).responses = s.responses := by
  cases e <;> rfl
@[simp] theorem State.setEngine_acks (s : State) (e : EngineId) (x : Engine) :
    (s.setEngine e x).acks = s.acks := by
  cases e <;> rfl
@[simp] theorem State.setEngine_record (s : State) (e : EngineId) (x : Engine) (slot : Nat) :
    (s.setEngine e x).record slot = s.record slot := by
  rw [State.record_eq, State.record_eq, State.setEngine_records]

/-! ### settleEngine -/

@[simp] theorem State.settleEngine_pending (s : State) (e : EngineId) (n : Option Shortcut) :
    (s.settleEngine e n).pending = s.pending := by
  cases n <;> simp [State.settleEngine]
@[simp] theorem State.settleEngine_phase (s : State) (e : EngineId) (n : Option Shortcut) :
    (s.settleEngine e n).phase = s.phase := by
  cases n <;> simp [State.settleEngine]
@[simp] theorem State.settleEngine_records (s : State) (e : EngineId) (n : Option Shortcut) :
    (s.settleEngine e n).records = s.records := by
  cases n <;> simp [State.settleEngine]
@[simp] theorem State.settleEngine_freeQueue (s : State) (e : EngineId) (n : Option Shortcut) :
    (s.settleEngine e n).freeQueue = s.freeQueue := by
  cases n <;> simp [State.settleEngine]
@[simp] theorem State.settleEngine_wornCount (s : State) (e : EngineId) (n : Option Shortcut) :
    (s.settleEngine e n).wornCount = s.wornCount := by
  cases n <;> simp [State.settleEngine]
@[simp] theorem State.settleEngine_lastGranted (s : State) (e : EngineId) (n : Option Shortcut) :
    (s.settleEngine e n).lastGranted = s.lastGranted := by
  cases n <;> simp [State.settleEngine]
@[simp] theorem State.settleEngine_cache (s : State) (e : EngineId) (n : Option Shortcut) :
    (s.settleEngine e n).cache = s.cache := by
  cases n <;> simp [State.settleEngine]
@[simp] theorem State.settleEngine_epoch (s : State) (e : EngineId) (n : Option Shortcut) :
    (s.settleEngine e n).epoch = s.epoch := by
  cases n <;> simp [State.settleEngine]
@[simp] theorem State.settleEngine_cmd (s : State) (e : EngineId) (n : Option Shortcut) :
    (s.settleEngine e n).cmd = s.cmd := by
  cases n <;> simp [State.settleEngine]
@[simp] theorem State.settleEngine_args (s : State) (e : EngineId) (n : Option Shortcut) :
    (s.settleEngine e n).args = s.args := by
  cases n <;> simp [State.settleEngine]
@[simp] theorem State.settleEngine_results (s : State) (e : EngineId) (n : Option Shortcut) :
    (s.settleEngine e n).results = s.results := by
  cases n <;> simp [State.settleEngine]
@[simp] theorem State.settleEngine_lastOutcome (s : State) (e : EngineId) (n : Option Shortcut) :
    (s.settleEngine e n).lastOutcome = s.lastOutcome := by
  cases n <;> simp [State.settleEngine]
@[simp] theorem State.settleEngine_lastCommand (s : State) (e : EngineId) (n : Option Shortcut) :
    (s.settleEngine e n).lastCommand = s.lastCommand := by
  cases n <;> simp [State.settleEngine]
@[simp] theorem State.settleEngine_eventEnable (s : State) (e : EngineId) (n : Option Shortcut) :
    (s.settleEngine e n).eventEnable = s.eventEnable := by
  cases n <;> simp [State.settleEngine]
@[simp] theorem State.settleEngine_config (s : State) (e : EngineId) (n : Option Shortcut) :
    (s.settleEngine e n).config = s.config := by
  cases n <;> simp [State.settleEngine]
@[simp] theorem State.settleEngine_lookupQueue (s : State) (e : EngineId) (n : Option Shortcut) :
    (s.settleEngine e n).lookupQueue = s.lookupQueue := by
  cases n <;> simp [State.settleEngine]
@[simp] theorem State.settleEngine_releaseQueue (s : State) (e : EngineId) (n : Option Shortcut) :
    (s.settleEngine e n).releaseQueue = s.releaseQueue := by
  cases n <;> simp [State.settleEngine]
@[simp] theorem State.settleEngine_moves (s : State) (e : EngineId) (n : Option Shortcut) :
    (s.settleEngine e n).moves = s.moves := by
  cases n <;> simp [State.settleEngine]
@[simp] theorem State.settleEngine_parkList (s : State) (e : EngineId) (n : Option Shortcut) :
    (s.settleEngine e n).parkList = s.parkList := by
  cases n <;> simp [State.settleEngine]
@[simp] theorem State.settleEngine_cycles (s : State) (e : EngineId) (n : Option Shortcut) :
    (s.settleEngine e n).cycles = s.cycles := by
  cases n <;> simp [State.settleEngine]
@[simp] theorem State.settleEngine_interval (s : State) (e : EngineId) (n : Option Shortcut) :
    (s.settleEngine e n).interval = s.interval := by
  cases n <;> simp [State.settleEngine]
@[simp] theorem State.settleEngine_expired (s : State) (e : EngineId) (n : Option Shortcut) :
    (s.settleEngine e n).expired = s.expired := by
  cases n <;> simp [State.settleEngine]
@[simp] theorem State.settleEngine_pendingExpiries (s : State) (e : EngineId) (n : Option Shortcut) :
    (s.settleEngine e n).pendingExpiries = s.pendingExpiries := by
  cases n <;> simp [State.settleEngine]
@[simp] theorem State.settleEngine_sweep (s : State) (e : EngineId) (n : Option Shortcut) :
    (s.settleEngine e n).sweep = s.sweep := by
  cases n <;> simp [State.settleEngine]
@[simp] theorem State.settleEngine_ports (s : State) (e : EngineId) (n : Option Shortcut) :
    (s.settleEngine e n).ports = s.ports := by
  cases n <;> simp [State.settleEngine]
@[simp] theorem State.settleEngine_portDomains (s : State) (e : EngineId) (n : Option Shortcut) :
    (s.settleEngine e n).portDomains = s.portDomains := by
  cases n <;> simp [State.settleEngine]
@[simp] theorem State.settleEngine_responses (s : State) (e : EngineId) (n : Option Shortcut) :
    (s.settleEngine e n).responses = s.responses := by
  cases n <;> simp [State.settleEngine]
@[simp] theorem State.settleEngine_acks (s : State) (e : EngineId) (n : Option Shortcut) :
    (s.settleEngine e n).acks = s.acks := by
  cases n <;> simp [State.settleEngine]
@[simp] theorem State.settleEngine_record (s : State) (e : EngineId) (n : Option Shortcut) (slot : Nat) :
    (s.settleEngine e n).record slot = s.record slot := by
  rw [State.record_eq, State.record_eq, State.settleEngine_records]

/-! ### retire -/

@[simp] theorem State.retire_pending (s : State) (n : Nat) : (s.retire n).pending = s.pending := by
  rw [State.retire]; split <;> cases s.record n <;> rfl
@[simp] theorem State.retire_phase (s : State) (n : Nat) : (s.retire n).phase = s.phase := by
  rw [State.retire]; split <;> cases s.record n <;> rfl
@[simp] theorem State.retire_lastGranted (s : State) (n : Nat) :
    (s.retire n).lastGranted = s.lastGranted := by
  rw [State.retire]; split <;> cases s.record n <;> rfl
@[simp] theorem State.retire_cmd (s : State) (n : Nat) : (s.retire n).cmd = s.cmd := by
  rw [State.retire]; split <;> cases s.record n <;> rfl
@[simp] theorem State.retire_args (s : State) (n : Nat) : (s.retire n).args = s.args := by
  rw [State.retire]; split <;> cases s.record n <;> rfl
@[simp] theorem State.retire_results (s : State) (n : Nat) : (s.retire n).results = s.results := by
  rw [State.retire]; split <;> cases s.record n <;> rfl
@[simp] theorem State.retire_lastOutcome (s : State) (n : Nat) :
    (s.retire n).lastOutcome = s.lastOutcome := by
  rw [State.retire]; split <;> cases s.record n <;> rfl
@[simp] theorem State.retire_lastCommand (s : State) (n : Nat) :
    (s.retire n).lastCommand = s.lastCommand := by
  rw [State.retire]; split <;> cases s.record n <;> rfl
@[simp] theorem State.retire_events (s : State) (n : Nat) : (s.retire n).events = s.events := by
  rw [State.retire]; split <;> cases s.record n <;> rfl
@[simp] theorem State.retire_eventEnable (s : State) (n : Nat) :
    (s.retire n).eventEnable = s.eventEnable := by
  rw [State.retire]; split <;> cases s.record n <;> rfl
@[simp] theorem State.retire_config (s : State) (n : Nat) : (s.retire n).config = s.config := by
  rw [State.retire]; split <;> cases s.record n <;> rfl
@[simp] theorem State.retire_engineA (s : State) (n : Nat) : (s.retire n).engineA = s.engineA := by
  rw [State.retire]; split <;> cases s.record n <;> rfl
@[simp] theorem State.retire_engineB (s : State) (n : Nat) : (s.retire n).engineB = s.engineB := by
  rw [State.retire]; split <;> cases s.record n <;> rfl
@[simp] theorem State.retire_lookupQueue (s : State) (n : Nat) :
    (s.retire n).lookupQueue = s.lookupQueue := by
  rw [State.retire]; split <;> cases s.record n <;> rfl
@[simp] theorem State.retire_releaseQueue (s : State) (n : Nat) :
    (s.retire n).releaseQueue = s.releaseQueue := by
  rw [State.retire]; split <;> cases s.record n <;> rfl
@[simp] theorem State.retire_moves (s : State) (n : Nat) : (s.retire n).moves = s.moves := by
  rw [State.retire]; split <;> cases s.record n <;> rfl
@[simp] theorem State.retire_parkList (s : State) (n : Nat) : (s.retire n).parkList = s.parkList := by
  rw [State.retire]; split <;> cases s.record n <;> rfl
@[simp] theorem State.retire_cycles (s : State) (n : Nat) : (s.retire n).cycles = s.cycles := by
  rw [State.retire]; split <;> cases s.record n <;> rfl
@[simp] theorem State.retire_interval (s : State) (n : Nat) : (s.retire n).interval = s.interval := by
  rw [State.retire]; split <;> cases s.record n <;> rfl
@[simp] theorem State.retire_expired (s : State) (n : Nat) : (s.retire n).expired = s.expired := by
  rw [State.retire]; split <;> cases s.record n <;> rfl
@[simp] theorem State.retire_pendingExpiries (s : State) (n : Nat) :
    (s.retire n).pendingExpiries = s.pendingExpiries := by
  rw [State.retire]; split <;> cases s.record n <;> rfl
@[simp] theorem State.retire_sweep (s : State) (n : Nat) : (s.retire n).sweep = s.sweep := by
  rw [State.retire]; split <;> cases s.record n <;> rfl
@[simp] theorem State.retire_gate (s : State) (n : Nat) : (s.retire n).gate = s.gate := by
  rw [State.retire]; split <;> cases s.record n <;> rfl
@[simp] theorem State.retire_ports (s : State) (n : Nat) : (s.retire n).ports = s.ports := by
  rw [State.retire]; split <;> cases s.record n <;> rfl
@[simp] theorem State.retire_portDomains (s : State) (n : Nat) :
    (s.retire n).portDomains = s.portDomains := by
  rw [State.retire]; split <;> cases s.record n <;> rfl
@[simp] theorem State.retire_responses (s : State) (n : Nat) : (s.retire n).responses = s.responses := by
  rw [State.retire]; split <;> cases s.record n <;> rfl
@[simp] theorem State.retire_acks (s : State) (n : Nat) : (s.retire n).acks = s.acks := by
  rw [State.retire]; split <;> cases s.record n <;> rfl

/-! ### closeGate -/

@[simp] theorem State.closeGate_pending (s : State) : s.closeGate.pending = s.pending := by
  cases h : s.gate <;> simp [State.closeGate, h]
@[simp] theorem State.closeGate_phase (s : State) : s.closeGate.phase = s.phase := by
  cases h : s.gate <;> simp [State.closeGate, h]
@[simp] theorem State.closeGate_records (s : State) : s.closeGate.records = s.records := by
  cases h : s.gate <;> simp [State.closeGate, h]
@[simp] theorem State.closeGate_freeQueue (s : State) : s.closeGate.freeQueue = s.freeQueue := by
  cases h : s.gate <;> simp [State.closeGate, h]
@[simp] theorem State.closeGate_wornCount (s : State) : s.closeGate.wornCount = s.wornCount := by
  cases h : s.gate <;> simp [State.closeGate, h]
@[simp] theorem State.closeGate_lastGranted (s : State) : s.closeGate.lastGranted = s.lastGranted := by
  cases h : s.gate <;> simp [State.closeGate, h]
@[simp] theorem State.closeGate_cache (s : State) : s.closeGate.cache = s.cache := by
  cases h : s.gate <;> simp [State.closeGate, h]
@[simp] theorem State.closeGate_epoch (s : State) : s.closeGate.epoch = s.epoch := by
  cases h : s.gate <;> simp [State.closeGate, h]
@[simp] theorem State.closeGate_cmd (s : State) : s.closeGate.cmd = s.cmd := by
  cases h : s.gate <;> simp [State.closeGate, h]
@[simp] theorem State.closeGate_args (s : State) : s.closeGate.args = s.args := by
  cases h : s.gate <;> simp [State.closeGate, h]
@[simp] theorem State.closeGate_results (s : State) : s.closeGate.results = s.results := by
  cases h : s.gate <;> simp [State.closeGate, h]
@[simp] theorem State.closeGate_lastOutcome (s : State) : s.closeGate.lastOutcome = s.lastOutcome := by
  cases h : s.gate <;> simp [State.closeGate, h]
@[simp] theorem State.closeGate_lastCommand (s : State) : s.closeGate.lastCommand = s.lastCommand := by
  cases h : s.gate <;> simp [State.closeGate, h]
@[simp] theorem State.closeGate_eventEnable (s : State) : s.closeGate.eventEnable = s.eventEnable := by
  cases h : s.gate <;> simp [State.closeGate, h]
@[simp] theorem State.closeGate_config (s : State) : s.closeGate.config = s.config := by
  cases h : s.gate <;> simp [State.closeGate, h]
@[simp] theorem State.closeGate_engineA (s : State) : s.closeGate.engineA = s.engineA := by
  cases h : s.gate <;> simp [State.closeGate, h]
@[simp] theorem State.closeGate_engineB (s : State) : s.closeGate.engineB = s.engineB := by
  cases h : s.gate <;> simp [State.closeGate, h]
@[simp] theorem State.closeGate_lookupQueue (s : State) : s.closeGate.lookupQueue = s.lookupQueue := by
  cases h : s.gate <;> simp [State.closeGate, h]
@[simp] theorem State.closeGate_releaseQueue (s : State) :
    s.closeGate.releaseQueue = s.releaseQueue := by
  cases h : s.gate <;> simp [State.closeGate, h]
@[simp] theorem State.closeGate_moves (s : State) : s.closeGate.moves = s.moves := by
  cases h : s.gate <;> simp [State.closeGate, h]
@[simp] theorem State.closeGate_parkList (s : State) : s.closeGate.parkList = s.parkList := by
  cases h : s.gate <;> simp [State.closeGate, h]
@[simp] theorem State.closeGate_cycles (s : State) : s.closeGate.cycles = s.cycles := by
  cases h : s.gate <;> simp [State.closeGate, h]
@[simp] theorem State.closeGate_interval (s : State) : s.closeGate.interval = s.interval := by
  cases h : s.gate <;> simp [State.closeGate, h]
@[simp] theorem State.closeGate_expired (s : State) : s.closeGate.expired = s.expired := by
  cases h : s.gate <;> simp [State.closeGate, h]
@[simp] theorem State.closeGate_pendingExpiries (s : State) :
    s.closeGate.pendingExpiries = s.pendingExpiries := by
  cases h : s.gate <;> simp [State.closeGate, h]
@[simp] theorem State.closeGate_sweep (s : State) : s.closeGate.sweep = s.sweep := by
  cases h : s.gate <;> simp [State.closeGate, h]
@[simp] theorem State.closeGate_ports (s : State) : s.closeGate.ports = s.ports := by
  cases h : s.gate <;> simp [State.closeGate, h]
@[simp] theorem State.closeGate_portDomains (s : State) : s.closeGate.portDomains = s.portDomains := by
  cases h : s.gate <;> simp [State.closeGate, h]
@[simp] theorem State.closeGate_responses (s : State) : s.closeGate.responses = s.responses := by
  cases h : s.gate <;> simp [State.closeGate, h]
@[simp] theorem State.closeGate_acks (s : State) : s.closeGate.acks = s.acks := by
  cases h : s.gate <;> simp [State.closeGate, h]
@[simp] theorem State.closeGate_record (s : State) (slot : Nat) :
    s.closeGate.record slot = s.record slot := by
  rw [State.record_eq, State.record_eq, State.closeGate_records]

/-! ### alterCacheAction -/

@[simp] theorem State.alterCacheAction_pending (s : State) (w : Word) (n : Nat) :
    (s.alterCacheAction w n).pending = s.pending := by
  rw [State.alterCacheAction]; split <;> rfl
@[simp] theorem State.alterCacheAction_phase (s : State) (w : Word) (n : Nat) :
    (s.alterCacheAction w n).phase = s.phase := by
  rw [State.alterCacheAction]; split <;> rfl
@[simp] theorem State.alterCacheAction_records (s : State) (w : Word) (n : Nat) :
    (s.alterCacheAction w n).records = s.records := by
  rw [State.alterCacheAction]; split <;> rfl
@[simp] theorem State.alterCacheAction_freeQueue (s : State) (w : Word) (n : Nat) :
    (s.alterCacheAction w n).freeQueue = s.freeQueue := by
  rw [State.alterCacheAction]; split <;> rfl
@[simp] theorem State.alterCacheAction_wornCount (s : State) (w : Word) (n : Nat) :
    (s.alterCacheAction w n).wornCount = s.wornCount := by
  rw [State.alterCacheAction]; split <;> rfl
@[simp] theorem State.alterCacheAction_lastGranted (s : State) (w : Word) (n : Nat) :
    (s.alterCacheAction w n).lastGranted = s.lastGranted := by
  rw [State.alterCacheAction]; split <;> rfl
@[simp] theorem State.alterCacheAction_epoch (s : State) (w : Word) (n : Nat) :
    (s.alterCacheAction w n).epoch = s.epoch := by
  rw [State.alterCacheAction]; split <;> rfl
@[simp] theorem State.alterCacheAction_cmd (s : State) (w : Word) (n : Nat) :
    (s.alterCacheAction w n).cmd = s.cmd := by
  rw [State.alterCacheAction]; split <;> rfl
@[simp] theorem State.alterCacheAction_args (s : State) (w : Word) (n : Nat) :
    (s.alterCacheAction w n).args = s.args := by
  rw [State.alterCacheAction]; split <;> rfl
@[simp] theorem State.alterCacheAction_results (s : State) (w : Word) (n : Nat) :
    (s.alterCacheAction w n).results = s.results := by
  rw [State.alterCacheAction]; split <;> rfl
@[simp] theorem State.alterCacheAction_lastOutcome (s : State) (w : Word) (n : Nat) :
    (s.alterCacheAction w n).lastOutcome = s.lastOutcome := by
  rw [State.alterCacheAction]; split <;> rfl
@[simp] theorem State.alterCacheAction_lastCommand (s : State) (w : Word) (n : Nat) :
    (s.alterCacheAction w n).lastCommand = s.lastCommand := by
  rw [State.alterCacheAction]; split <;> rfl
@[simp] theorem State.alterCacheAction_events (s : State) (w : Word) (n : Nat) :
    (s.alterCacheAction w n).events = s.events := by
  rw [State.alterCacheAction]; split <;> rfl
@[simp] theorem State.alterCacheAction_eventEnable (s : State) (w : Word) (n : Nat) :
    (s.alterCacheAction w n).eventEnable = s.eventEnable := by
  rw [State.alterCacheAction]; split <;> rfl
@[simp] theorem State.alterCacheAction_config (s : State) (w : Word) (n : Nat) :
    (s.alterCacheAction w n).config = s.config := by
  rw [State.alterCacheAction]; split <;> rfl
@[simp] theorem State.alterCacheAction_engineA (s : State) (w : Word) (n : Nat) :
    (s.alterCacheAction w n).engineA = s.engineA := by
  rw [State.alterCacheAction]; split <;> rfl
@[simp] theorem State.alterCacheAction_engineB (s : State) (w : Word) (n : Nat) :
    (s.alterCacheAction w n).engineB = s.engineB := by
  rw [State.alterCacheAction]; split <;> rfl
@[simp] theorem State.alterCacheAction_lookupQueue (s : State) (w : Word) (n : Nat) :
    (s.alterCacheAction w n).lookupQueue = s.lookupQueue := by
  rw [State.alterCacheAction]; split <;> rfl
@[simp] theorem State.alterCacheAction_releaseQueue (s : State) (w : Word) (n : Nat) :
    (s.alterCacheAction w n).releaseQueue = s.releaseQueue := by
  rw [State.alterCacheAction]; split <;> rfl
@[simp] theorem State.alterCacheAction_moves (s : State) (w : Word) (n : Nat) :
    (s.alterCacheAction w n).moves = s.moves := by
  rw [State.alterCacheAction]; split <;> rfl
@[simp] theorem State.alterCacheAction_parkList (s : State) (w : Word) (n : Nat) :
    (s.alterCacheAction w n).parkList = s.parkList := by
  rw [State.alterCacheAction]; split <;> rfl
@[simp] theorem State.alterCacheAction_cycles (s : State) (w : Word) (n : Nat) :
    (s.alterCacheAction w n).cycles = s.cycles := by
  rw [State.alterCacheAction]; split <;> rfl
@[simp] theorem State.alterCacheAction_interval (s : State) (w : Word) (n : Nat) :
    (s.alterCacheAction w n).interval = s.interval := by
  rw [State.alterCacheAction]; split <;> rfl
@[simp] theorem State.alterCacheAction_expired (s : State) (w : Word) (n : Nat) :
    (s.alterCacheAction w n).expired = s.expired := by
  rw [State.alterCacheAction]; split <;> rfl
@[simp] theorem State.alterCacheAction_pendingExpiries (s : State) (w : Word) (n : Nat) :
    (s.alterCacheAction w n).pendingExpiries = s.pendingExpiries := by
  rw [State.alterCacheAction]; split <;> rfl
@[simp] theorem State.alterCacheAction_sweep (s : State) (w : Word) (n : Nat) :
    (s.alterCacheAction w n).sweep = s.sweep := by
  rw [State.alterCacheAction]; split <;> rfl
@[simp] theorem State.alterCacheAction_gate (s : State) (w : Word) (n : Nat) :
    (s.alterCacheAction w n).gate = s.gate := by
  rw [State.alterCacheAction]; split <;> rfl
@[simp] theorem State.alterCacheAction_ports (s : State) (w : Word) (n : Nat) :
    (s.alterCacheAction w n).ports = s.ports := by
  rw [State.alterCacheAction]; split <;> rfl
@[simp] theorem State.alterCacheAction_portDomains (s : State) (w : Word) (n : Nat) :
    (s.alterCacheAction w n).portDomains = s.portDomains := by
  rw [State.alterCacheAction]; split <;> rfl
@[simp] theorem State.alterCacheAction_responses (s : State) (w : Word) (n : Nat) :
    (s.alterCacheAction w n).responses = s.responses := by
  rw [State.alterCacheAction]; split <;> rfl
@[simp] theorem State.alterCacheAction_acks (s : State) (w : Word) (n : Nat) :
    (s.alterCacheAction w n).acks = s.acks := by
  rw [State.alterCacheAction]; split <;> rfl
@[simp] theorem State.alterCacheAction_record (s : State) (w : Word) (n : Nat) (slot : Nat) :
    (s.alterCacheAction w n).record slot = s.record slot := by
  rw [State.record_eq, State.record_eq, State.alterCacheAction_records]

/-! ### forwardCacheAction -/

@[simp] theorem State.forwardCacheAction_pending (s : State) (n : Nat) (r : Record) :
    (s.forwardCacheAction n r).pending = s.pending := by
  cases r <;> rfl
@[simp] theorem State.forwardCacheAction_phase (s : State) (n : Nat) (r : Record) :
    (s.forwardCacheAction n r).phase = s.phase := by
  cases r <;> rfl
@[simp] theorem State.forwardCacheAction_records (s : State) (n : Nat) (r : Record) :
    (s.forwardCacheAction n r).records = s.records := by
  cases r <;> rfl
@[simp] theorem State.forwardCacheAction_freeQueue (s : State) (n : Nat) (r : Record) :
    (s.forwardCacheAction n r).freeQueue = s.freeQueue := by
  cases r <;> rfl
@[simp] theorem State.forwardCacheAction_wornCount (s : State) (n : Nat) (r : Record) :
    (s.forwardCacheAction n r).wornCount = s.wornCount := by
  cases r <;> rfl
@[simp] theorem State.forwardCacheAction_lastGranted (s : State) (n : Nat) (r : Record) :
    (s.forwardCacheAction n r).lastGranted = s.lastGranted := by
  cases r <;> rfl
@[simp] theorem State.forwardCacheAction_epoch (s : State) (n : Nat) (r : Record) :
    (s.forwardCacheAction n r).epoch = s.epoch := by
  cases r <;> rfl
@[simp] theorem State.forwardCacheAction_cmd (s : State) (n : Nat) (r : Record) :
    (s.forwardCacheAction n r).cmd = s.cmd := by
  cases r <;> rfl
@[simp] theorem State.forwardCacheAction_args (s : State) (n : Nat) (r : Record) :
    (s.forwardCacheAction n r).args = s.args := by
  cases r <;> rfl
@[simp] theorem State.forwardCacheAction_results (s : State) (n : Nat) (r : Record) :
    (s.forwardCacheAction n r).results = s.results := by
  cases r <;> rfl
@[simp] theorem State.forwardCacheAction_lastOutcome (s : State) (n : Nat) (r : Record) :
    (s.forwardCacheAction n r).lastOutcome = s.lastOutcome := by
  cases r <;> rfl
@[simp] theorem State.forwardCacheAction_lastCommand (s : State) (n : Nat) (r : Record) :
    (s.forwardCacheAction n r).lastCommand = s.lastCommand := by
  cases r <;> rfl
@[simp] theorem State.forwardCacheAction_events (s : State) (n : Nat) (r : Record) :
    (s.forwardCacheAction n r).events = s.events := by
  cases r <;> rfl
@[simp] theorem State.forwardCacheAction_eventEnable (s : State) (n : Nat) (r : Record) :
    (s.forwardCacheAction n r).eventEnable = s.eventEnable := by
  cases r <;> rfl
@[simp] theorem State.forwardCacheAction_config (s : State) (n : Nat) (r : Record) :
    (s.forwardCacheAction n r).config = s.config := by
  cases r <;> rfl
@[simp] theorem State.forwardCacheAction_engineA (s : State) (n : Nat) (r : Record) :
    (s.forwardCacheAction n r).engineA = s.engineA := by
  cases r <;> rfl
@[simp] theorem State.forwardCacheAction_engineB (s : State) (n : Nat) (r : Record) :
    (s.forwardCacheAction n r).engineB = s.engineB := by
  cases r <;> rfl
@[simp] theorem State.forwardCacheAction_lookupQueue (s : State) (n : Nat) (r : Record) :
    (s.forwardCacheAction n r).lookupQueue = s.lookupQueue := by
  cases r <;> rfl
@[simp] theorem State.forwardCacheAction_releaseQueue (s : State) (n : Nat) (r : Record) :
    (s.forwardCacheAction n r).releaseQueue = s.releaseQueue := by
  cases r <;> rfl
@[simp] theorem State.forwardCacheAction_moves (s : State) (n : Nat) (r : Record) :
    (s.forwardCacheAction n r).moves = s.moves := by
  cases r <;> rfl
@[simp] theorem State.forwardCacheAction_parkList (s : State) (n : Nat) (r : Record) :
    (s.forwardCacheAction n r).parkList = s.parkList := by
  cases r <;> rfl
@[simp] theorem State.forwardCacheAction_cycles (s : State) (n : Nat) (r : Record) :
    (s.forwardCacheAction n r).cycles = s.cycles := by
  cases r <;> rfl
@[simp] theorem State.forwardCacheAction_interval (s : State) (n : Nat) (r : Record) :
    (s.forwardCacheAction n r).interval = s.interval := by
  cases r <;> rfl
@[simp] theorem State.forwardCacheAction_expired (s : State) (n : Nat) (r : Record) :
    (s.forwardCacheAction n r).expired = s.expired := by
  cases r <;> rfl
@[simp] theorem State.forwardCacheAction_pendingExpiries (s : State) (n : Nat) (r : Record) :
    (s.forwardCacheAction n r).pendingExpiries = s.pendingExpiries := by
  cases r <;> rfl
@[simp] theorem State.forwardCacheAction_sweep (s : State) (n : Nat) (r : Record) :
    (s.forwardCacheAction n r).sweep = s.sweep := by
  cases r <;> rfl
@[simp] theorem State.forwardCacheAction_gate (s : State) (n : Nat) (r : Record) :
    (s.forwardCacheAction n r).gate = s.gate := by
  cases r <;> rfl
@[simp] theorem State.forwardCacheAction_ports (s : State) (n : Nat) (r : Record) :
    (s.forwardCacheAction n r).ports = s.ports := by
  cases r <;> rfl
@[simp] theorem State.forwardCacheAction_portDomains (s : State) (n : Nat) (r : Record) :
    (s.forwardCacheAction n r).portDomains = s.portDomains := by
  cases r <;> rfl
@[simp] theorem State.forwardCacheAction_responses (s : State) (n : Nat) (r : Record) :
    (s.forwardCacheAction n r).responses = s.responses := by
  cases r <;> rfl
@[simp] theorem State.forwardCacheAction_acks (s : State) (n : Nat) (r : Record) :
    (s.forwardCacheAction n r).acks = s.acks := by
  cases r <;> rfl
@[simp] theorem State.forwardCacheAction_record (s : State) (n : Nat) (r : Record) (slot : Nat) :
    (s.forwardCacheAction n r).record slot = s.record slot := by
  rw [State.record_eq, State.record_eq, State.forwardCacheAction_records]

/-! ### fill -/

@[simp] theorem State.fill_pending (s : State) (g : BitVec 16) (e : CacheEntry) :
    (s.fill g e).pending = s.pending := by
  rw [State.fill]; split <;> rfl
@[simp] theorem State.fill_phase (s : State) (g : BitVec 16) (e : CacheEntry) :
    (s.fill g e).phase = s.phase := by
  rw [State.fill]; split <;> rfl
@[simp] theorem State.fill_records (s : State) (g : BitVec 16) (e : CacheEntry) :
    (s.fill g e).records = s.records := by
  rw [State.fill]; split <;> rfl
@[simp] theorem State.fill_freeQueue (s : State) (g : BitVec 16) (e : CacheEntry) :
    (s.fill g e).freeQueue = s.freeQueue := by
  rw [State.fill]; split <;> rfl
@[simp] theorem State.fill_wornCount (s : State) (g : BitVec 16) (e : CacheEntry) :
    (s.fill g e).wornCount = s.wornCount := by
  rw [State.fill]; split <;> rfl
@[simp] theorem State.fill_lastGranted (s : State) (g : BitVec 16) (e : CacheEntry) :
    (s.fill g e).lastGranted = s.lastGranted := by
  rw [State.fill]; split <;> rfl
@[simp] theorem State.fill_epoch (s : State) (g : BitVec 16) (e : CacheEntry) :
    (s.fill g e).epoch = s.epoch := by
  rw [State.fill]; split <;> rfl
@[simp] theorem State.fill_cmd (s : State) (g : BitVec 16) (e : CacheEntry) :
    (s.fill g e).cmd = s.cmd := by
  rw [State.fill]; split <;> rfl
@[simp] theorem State.fill_args (s : State) (g : BitVec 16) (e : CacheEntry) :
    (s.fill g e).args = s.args := by
  rw [State.fill]; split <;> rfl
@[simp] theorem State.fill_results (s : State) (g : BitVec 16) (e : CacheEntry) :
    (s.fill g e).results = s.results := by
  rw [State.fill]; split <;> rfl
@[simp] theorem State.fill_lastOutcome (s : State) (g : BitVec 16) (e : CacheEntry) :
    (s.fill g e).lastOutcome = s.lastOutcome := by
  rw [State.fill]; split <;> rfl
@[simp] theorem State.fill_lastCommand (s : State) (g : BitVec 16) (e : CacheEntry) :
    (s.fill g e).lastCommand = s.lastCommand := by
  rw [State.fill]; split <;> rfl
@[simp] theorem State.fill_events (s : State) (g : BitVec 16) (e : CacheEntry) :
    (s.fill g e).events = s.events := by
  rw [State.fill]; split <;> rfl
@[simp] theorem State.fill_eventEnable (s : State) (g : BitVec 16) (e : CacheEntry) :
    (s.fill g e).eventEnable = s.eventEnable := by
  rw [State.fill]; split <;> rfl
@[simp] theorem State.fill_config (s : State) (g : BitVec 16) (e : CacheEntry) :
    (s.fill g e).config = s.config := by
  rw [State.fill]; split <;> rfl
@[simp] theorem State.fill_engineA (s : State) (g : BitVec 16) (e : CacheEntry) :
    (s.fill g e).engineA = s.engineA := by
  rw [State.fill]; split <;> rfl
@[simp] theorem State.fill_engineB (s : State) (g : BitVec 16) (e : CacheEntry) :
    (s.fill g e).engineB = s.engineB := by
  rw [State.fill]; split <;> rfl
@[simp] theorem State.fill_lookupQueue (s : State) (g : BitVec 16) (e : CacheEntry) :
    (s.fill g e).lookupQueue = s.lookupQueue := by
  rw [State.fill]; split <;> rfl
@[simp] theorem State.fill_releaseQueue (s : State) (g : BitVec 16) (e : CacheEntry) :
    (s.fill g e).releaseQueue = s.releaseQueue := by
  rw [State.fill]; split <;> rfl
@[simp] theorem State.fill_moves (s : State) (g : BitVec 16) (e : CacheEntry) :
    (s.fill g e).moves = s.moves := by
  rw [State.fill]; split <;> rfl
@[simp] theorem State.fill_parkList (s : State) (g : BitVec 16) (e : CacheEntry) :
    (s.fill g e).parkList = s.parkList := by
  rw [State.fill]; split <;> rfl
@[simp] theorem State.fill_cycles (s : State) (g : BitVec 16) (e : CacheEntry) :
    (s.fill g e).cycles = s.cycles := by
  rw [State.fill]; split <;> rfl
@[simp] theorem State.fill_interval (s : State) (g : BitVec 16) (e : CacheEntry) :
    (s.fill g e).interval = s.interval := by
  rw [State.fill]; split <;> rfl
@[simp] theorem State.fill_expired (s : State) (g : BitVec 16) (e : CacheEntry) :
    (s.fill g e).expired = s.expired := by
  rw [State.fill]; split <;> rfl
@[simp] theorem State.fill_pendingExpiries (s : State) (g : BitVec 16) (e : CacheEntry) :
    (s.fill g e).pendingExpiries = s.pendingExpiries := by
  rw [State.fill]; split <;> rfl
@[simp] theorem State.fill_sweep (s : State) (g : BitVec 16) (e : CacheEntry) :
    (s.fill g e).sweep = s.sweep := by
  rw [State.fill]; split <;> rfl
@[simp] theorem State.fill_gate (s : State) (g : BitVec 16) (e : CacheEntry) :
    (s.fill g e).gate = s.gate := by
  rw [State.fill]; split <;> rfl
@[simp] theorem State.fill_ports (s : State) (g : BitVec 16) (e : CacheEntry) :
    (s.fill g e).ports = s.ports := by
  rw [State.fill]; split <;> rfl
@[simp] theorem State.fill_portDomains (s : State) (g : BitVec 16) (e : CacheEntry) :
    (s.fill g e).portDomains = s.portDomains := by
  rw [State.fill]; split <;> rfl
@[simp] theorem State.fill_responses (s : State) (g : BitVec 16) (e : CacheEntry) :
    (s.fill g e).responses = s.responses := by
  rw [State.fill]; split <;> rfl
@[simp] theorem State.fill_acks (s : State) (g : BitVec 16) (e : CacheEntry) :
    (s.fill g e).acks = s.acks := by
  rw [State.fill]; split <;> rfl
@[simp] theorem State.fill_record (s : State) (g : BitVec 16) (e : CacheEntry) (slot : Nat) :
    (s.fill g e).record slot = s.record slot := by
  rw [State.record_eq, State.record_eq, State.fill_records]

/-! ### acceptResponse -/

@[simp] theorem State.acceptResponse_pending (s : State) (r : Response) (l : List Response) :
    (s.acceptResponse r l).pending = s.pending := by
  simp [State.acceptResponse]
@[simp] theorem State.acceptResponse_phase (s : State) (r : Response) (l : List Response) :
    (s.acceptResponse r l).phase = s.phase := by
  simp [State.acceptResponse]
@[simp] theorem State.acceptResponse_records (s : State) (r : Response) (l : List Response) :
    (s.acceptResponse r l).records = s.records := by
  simp [State.acceptResponse]
@[simp] theorem State.acceptResponse_freeQueue (s : State) (r : Response) (l : List Response) :
    (s.acceptResponse r l).freeQueue = s.freeQueue := by
  simp [State.acceptResponse]
@[simp] theorem State.acceptResponse_wornCount (s : State) (r : Response) (l : List Response) :
    (s.acceptResponse r l).wornCount = s.wornCount := by
  simp [State.acceptResponse]
@[simp] theorem State.acceptResponse_lastGranted (s : State) (r : Response) (l : List Response) :
    (s.acceptResponse r l).lastGranted = s.lastGranted := by
  simp [State.acceptResponse]
@[simp] theorem State.acceptResponse_cache (s : State) (r : Response) (l : List Response) :
    (s.acceptResponse r l).cache = s.cache := by
  simp [State.acceptResponse]
@[simp] theorem State.acceptResponse_epoch (s : State) (r : Response) (l : List Response) :
    (s.acceptResponse r l).epoch = s.epoch := by
  simp [State.acceptResponse]
@[simp] theorem State.acceptResponse_cmd (s : State) (r : Response) (l : List Response) :
    (s.acceptResponse r l).cmd = s.cmd := by
  simp [State.acceptResponse]
@[simp] theorem State.acceptResponse_args (s : State) (r : Response) (l : List Response) :
    (s.acceptResponse r l).args = s.args := by
  simp [State.acceptResponse]
@[simp] theorem State.acceptResponse_results (s : State) (r : Response) (l : List Response) :
    (s.acceptResponse r l).results = s.results := by
  simp [State.acceptResponse]
@[simp] theorem State.acceptResponse_lastOutcome (s : State) (r : Response) (l : List Response) :
    (s.acceptResponse r l).lastOutcome = s.lastOutcome := by
  simp [State.acceptResponse]
@[simp] theorem State.acceptResponse_lastCommand (s : State) (r : Response) (l : List Response) :
    (s.acceptResponse r l).lastCommand = s.lastCommand := by
  simp [State.acceptResponse]
@[simp] theorem State.acceptResponse_eventEnable (s : State) (r : Response) (l : List Response) :
    (s.acceptResponse r l).eventEnable = s.eventEnable := by
  simp [State.acceptResponse]
@[simp] theorem State.acceptResponse_config (s : State) (r : Response) (l : List Response) :
    (s.acceptResponse r l).config = s.config := by
  simp [State.acceptResponse]
@[simp] theorem State.acceptResponse_engineA (s : State) (r : Response) (l : List Response) :
    (s.acceptResponse r l).engineA = s.engineA := by
  simp [State.acceptResponse]
@[simp] theorem State.acceptResponse_engineB (s : State) (r : Response) (l : List Response) :
    (s.acceptResponse r l).engineB = s.engineB := by
  simp [State.acceptResponse]
@[simp] theorem State.acceptResponse_lookupQueue (s : State) (r : Response) (l : List Response) :
    (s.acceptResponse r l).lookupQueue = s.lookupQueue := by
  simp [State.acceptResponse]
@[simp] theorem State.acceptResponse_releaseQueue (s : State) (r : Response) (l : List Response) :
    (s.acceptResponse r l).releaseQueue = s.releaseQueue := by
  simp [State.acceptResponse]
@[simp] theorem State.acceptResponse_moves (s : State) (r : Response) (l : List Response) :
    (s.acceptResponse r l).moves = s.moves := by
  simp [State.acceptResponse]
@[simp] theorem State.acceptResponse_parkList (s : State) (r : Response) (l : List Response) :
    (s.acceptResponse r l).parkList = s.parkList := by
  simp [State.acceptResponse]
@[simp] theorem State.acceptResponse_cycles (s : State) (r : Response) (l : List Response) :
    (s.acceptResponse r l).cycles = s.cycles := by
  simp [State.acceptResponse]
@[simp] theorem State.acceptResponse_interval (s : State) (r : Response) (l : List Response) :
    (s.acceptResponse r l).interval = s.interval := by
  simp [State.acceptResponse]
@[simp] theorem State.acceptResponse_expired (s : State) (r : Response) (l : List Response) :
    (s.acceptResponse r l).expired = s.expired := by
  simp [State.acceptResponse]
@[simp] theorem State.acceptResponse_pendingExpiries (s : State) (r : Response) (l : List Response) :
    (s.acceptResponse r l).pendingExpiries = s.pendingExpiries := by
  simp [State.acceptResponse]
@[simp] theorem State.acceptResponse_sweep (s : State) (r : Response) (l : List Response) :
    (s.acceptResponse r l).sweep = s.sweep := by
  simp [State.acceptResponse]
@[simp] theorem State.acceptResponse_portDomains (s : State) (r : Response) (l : List Response) :
    (s.acceptResponse r l).portDomains = s.portDomains := by
  simp [State.acceptResponse]
@[simp] theorem State.acceptResponse_acks (s : State) (r : Response) (l : List Response) :
    (s.acceptResponse r l).acks = s.acks := by
  simp [State.acceptResponse]
@[simp] theorem State.acceptResponse_record (s : State) (r : Response) (l : List Response) (slot : Nat) :
    (s.acceptResponse r l).record slot = s.record slot := by
  rw [State.record_eq, State.record_eq, State.acceptResponse_records]

end Sys2Proof.Machine
end

