-- ==== Sys2Proof/Laws/Walks.lean ====
section
/-! SUPPORT. Everything one access of a walk can do to the state and to its walk, said once. -/

namespace Sys2Proof.Machine

open Sys2Proof

/-- What a walk's access can do to the cache: every entry was there or shows a LIVE record, there are no
more than before or than 32, and still at most one for each origin. -/
structure CacheDid (s : State) (c : List CacheEntry) : Prop where
  entries : ∀ e ∈ c, e ∈ s.cache ∨ ∃ o, s.record e.final.slot = .live e.final.gen o ∧ o.ext = e.ext
  length : c.length ≤ s.cache.length ∨ c.length ≤ 32
  nodup : (s.cache.map (fun e => e.origin)).Nodup → (c.map (fun e => e.origin)).Nodup

theorem CacheDid.same (s : State) : CacheDid s s.cache :=
  ⟨fun _ h => Or.inl h, Or.inl (Nat.le_refl _), fun h => h⟩

theorem nodup_origins_filter (c : List CacheEntry) (p : CacheEntry → Bool)
    (h : (c.map (fun e => e.origin)).Nodup) : ((c.filter p).map (fun e => e.origin)).Nodup :=
  h.sublist (List.filter_sublist.map _)

theorem CacheDid.dropped (s : State) (h : Handle) : CacheDid s (cacheDropOrigin s.cache h) :=
  ⟨fun _ he => Or.inl ((mem_cacheDropOrigin _ _ _).mp he).1, Or.inl (List.length_filter_le _ _),
    nodup_origins_filter _ _⟩

/-- An entry put before the others of another origin. -/
theorem nodup_origins_cons (c : List CacheEntry) (e : CacheEntry)
    (h : (c.map (fun e => e.origin)).Nodup) :
    ((e :: cacheDropOrigin c e.origin).map (fun e => e.origin)).Nodup := by
  rw [List.map_cons, List.nodup_cons]
  refine ⟨fun hm => ?_, nodup_origins_filter _ _ h⟩
  obtain ⟨f, hf, he⟩ := List.mem_map.mp hm
  exact ((mem_cacheDropOrigin _ _ _).mp hf).2 he

theorem CacheDid.touched (s : State) (e : CacheEntry) (h : e ∈ s.cache) :
    CacheDid s (cacheTouch s.cache e) := by
  refine ⟨fun f hf => ?_, Or.inl ?_, nodup_origins_cons _ _⟩
  · rcases (mem_cacheTouch _ _ _).mp hf with rfl | ⟨hf, _⟩
    · exact Or.inl h
    · exact Or.inl hf
  · rw [cacheTouch, List.length_cons]
    have : (cacheDropOrigin s.cache e.origin).length < s.cache.length := by
      rw [cacheDropOrigin]
      exact List.length_filter_lt_length_iff_exists.mpr ⟨e, h, by simp⟩
    exact this

theorem CacheDid.filled (s : State) (e : CacheEntry) (o : Object)
    (h : s.record e.final.slot = .live e.final.gen o) (he : o.ext = e.ext) :
    CacheDid s (cacheFill s.cache e) := by
  refine ⟨fun f hf => ?_, Or.inr (length_cacheFill _ _), fun hn => ?_⟩
  · rcases mem_cacheFill _ _ _ hf with rfl | ⟨hf, _⟩
    · exact Or.inr ⟨o, h, he⟩
    · exact Or.inl hf
  · exact (nodup_origins_cons s.cache e hn).sublist ((List.take_sublist _ _).map _)

/-- A cache action after the removal of an entry. -/
theorem CacheDid.afterDrop (s : State) (h : Handle) (c : List CacheEntry)
    (hd : CacheDid { s with cache := cacheDropOrigin s.cache h } c) : CacheDid s c := by
  have h0 := CacheDid.dropped s h
  refine ⟨fun e he => ?_, ?_, fun hn => hd.nodup (h0.nodup hn)⟩
  · rcases hd.entries e he with hm | hl
    · exact h0.entries e hm
    · exact Or.inr hl
  · rcases hd.length with hl | hl
    · exact h0.length.elim (fun h1 => Or.inl (Nat.le_trans hl h1)) (fun h1 => Or.inr (Nat.le_trans hl h1))
    · exact Or.inr hl

/-- What a walk's access can do to the Record Store: nothing, or one pin more on a LIVE record. -/
def PinnedOne (s : State) (m : Store) : Prop :=
  m = s.records ∨ ∃ n g o, s.record n = .live g o ∧ o.pins ≠ 255#8
    ∧ m = putRecord s.records n (.live g { o with pins := o.pins + 1#8 })

/-- Everything an access of a walk can do: pin, cache action, and an end, a hop or a park. `limit` is the
walk's HOP_LIMIT, `bound` the greatest hop count it can report. -/
structure WalkDid (mayPark : Bool) (limit bound : Nat) (s : State) (x : State × WalkStep) : Prop where
  frame : x.1 = { s with records := x.1.records, cache := x.1.cache }
  records : PinnedOne s x.1.records
  cache : CacheDid s x.1.cache
  hop : ∀ p, x.2 = .hop p → 1 ≤ p.hops ∧ p.hops ≤ p.limit ∧ p.limit = limit
  ended : ∀ result next, x.2 = .ended result next → result.hops ≤ bound
  parked : ∀ n next, x.2 = .parked n next →
    mayPark = true ∧ s.parkRoom = true ∧ ∃ g o, s.record n = .moving g o

theorem CacheDid.fill (s : State) (g : BitVec 16) (e : CacheEntry) (o : Object)
    (h : s.record e.final.slot = .live e.final.gen o) (he : o.ext = e.ext) :
    CacheDid s (s.fill g e).cache := by
  rw [State.fill]
  split
  · exact CacheDid.filled s e o h he
  · exact CacheDid.same s

/-- A walk's access that only ends the walk. -/
theorem WalkDid.ends (mayPark : Bool) (limit bound : Nat) (s : State) (result : WalkResult)
    (next : Option Shortcut) (h : result.hops ≤ bound) :
    WalkDid mayPark limit bound s (s, .ended result next) :=
  ⟨rfl, Or.inl rfl, CacheDid.same s, fun _ e => by simp at e, fun _ _ e => by cases e; exact h,
    fun _ _ e => by simp at e⟩

theorem walkFinalLive_did (mayPark : Bool) (limit : Nat) (r : WalkRequest) (g : BitVec 16) (h : Handle)
    (hops : Nat) (o : Object) (next : Option Shortcut) (s : State)
    (hl : s.record h.slot = .live h.gen o) :
    WalkDid mayPark limit hops s (walkFinalLive r g h hops o next s) := by
  rw [walkFinalLive]
  split
  · refine ⟨?_, Or.inl (State.fill_records s _ _), CacheDid.fill s _ _ o hl rfl, fun _ e => by simp at e,
      fun _ _ e => by cases e; exact Nat.le_refl _, fun _ _ e => by simp at e⟩
    simp only [State.fill]; split <;> rfl
  · dsimp only
    split
    · split
      · exact WalkDid.ends _ _ _ _ _ _ (Nat.le_refl _)
      · next hp =>
        refine ⟨?_, Or.inr ⟨h.slot, h.gen, o, hl, hp, ?_⟩, ?_, fun _ e => by simp at e,
          fun _ _ e => by cases e; exact Nat.le_refl _, fun _ _ e => by simp at e⟩
        · simp only [State.fill]; split <;> rfl
        · simp
        · simp only [State.fill]
          split
          · exact CacheDid.filled s ⟨_, h, hops, o.ext⟩ o hl rfl
          · exact CacheDid.same s
    · refine ⟨?_, Or.inl (State.fill_records s _ _), CacheDid.fill s _ _ o hl rfl,
        fun _ e => by simp at e, fun _ _ e => by cases e; exact Nat.le_refl _, fun _ _ e => by simp at e⟩
      simp only [State.fill]; split <;> rfl

theorem walkFinalMoving_did (mayPark : Bool) (limit : Nat) (r : WalkRequest) (h : Handle) (hops : Nat)
    (o : Object) (next : Option Shortcut) (s : State) (g : BitVec 8)
    (hl : s.record h.slot = .moving g o) :
    WalkDid mayPark limit hops s (walkFinalMoving mayPark r h hops o next s) := by
  rw [walkFinalMoving]
  split
  · exact WalkDid.ends _ _ _ _ _ _ (Nat.le_refl _)
  · split
    · split
      · next hp =>
        rw [Bool.and_eq_true] at hp
        exact ⟨rfl, Or.inl rfl, CacheDid.same s, fun _ e => by simp at e, fun _ _ e => by simp at e,
          fun _ _ e => by cases e; exact ⟨hp.1, hp.2, g, o, hl⟩⟩
      · exact WalkDid.ends _ _ _ _ _ _ (Nat.le_refl _)
    · exact WalkDid.ends _ _ _ _ _ _ (Nat.le_refl _)

/-- Everything one read of a walk can do (R63). -/
theorem walkRead_did (mayPark : Bool) (r : WalkRequest) (g : BitVec 16) (limit : Nat)
    (reading : Option OriginReading) (h : Handle) (hops : Nat) (s : State) :
    WalkDid mayPark limit hops s (walkRead mayPark r g limit reading h hops s) := by
  rw [walkRead]
  dsimp only
  split
  · exact WalkDid.ends _ _ _ _ _ _ (Nat.le_refl _)
  · exact WalkDid.ends _ _ _ _ _ _ (Nat.le_refl _)
  · split
    · exact WalkDid.ends _ _ _ _ _ _ (Nat.le_refl _)
    · split
      · next hl =>
        exact ⟨rfl, Or.inl rfl, CacheDid.same s,
          fun _ e => by cases e; exact ⟨Nat.le_add_left 1 hops, hl, rfl⟩,
          fun _ _ e => by simp at e, fun _ _ e => by simp at e⟩
      · exact WalkDid.ends _ _ _ _ _ _ (Nat.le_refl _)
  · next g' o hr =>
    split
    · exact WalkDid.ends _ _ _ _ _ _ (Nat.le_refl _)
    · next hg =>
      rw [ne_eq, Decidable.not_not] at hg
      exact walkFinalLive_did _ _ _ _ _ _ _ _ _ (by rw [hr, hg])
  · next g' o hr =>
    split
    · exact WalkDid.ends _ _ _ _ _ _ (Nat.le_refl _)
    · exact walkFinalMoving_did _ _ _ _ _ _ _ _ g' hr

/-- Everything a hit can do (R47, R48). -/
theorem walkHit_did (mayPark : Bool) (limit : Nat) (r : WalkRequest) (e : CacheEntry) (s : State)
    (he : e ∈ s.cache) (hl : e.hops ≤ limit) : WalkDid mayPark limit limit s (walkHit r e s) := by
  have ends : ∀ result : WalkResult, result.hops = e.hops →
      WalkDid mayPark limit limit s ({ s with cache := cacheTouch s.cache e }, .ended result none) :=
    fun result hr => ⟨rfl, Or.inl rfl, CacheDid.touched s e he, fun _ x => by simp at x,
      fun _ _ x => by cases x; exact hr ▸ hl, fun _ _ x => by simp at x⟩
  rw [walkHit]
  dsimp only
  split
  · exact ends _ rfl
  · split
    · split
      · next g o hr =>
        split
        · exact ends _ rfl
        · next hp =>
          exact ⟨rfl, Or.inr ⟨_, g, o, hr, hp, rfl⟩, CacheDid.touched s e he, fun _ x => by simp at x,
            fun _ _ x => by cases x; exact hl, fun _ _ x => by simp at x⟩
      all_goals exact ends _ rfl
    · exact ends _ rfl

/-- Everything a probe can do (R46). -/
theorem State.probe_cases (s : State) (h : Handle) :
    s.probe h = (s, none)
      ∨ s.probe h = ({ s with cache := cacheDropOrigin s.cache h }, none)
      ∨ ∃ e ∈ s.cache, e.origin = h ∧ e.hops ≤ s.config.hopLimit ∧ s.probe h = (s, some e) := by
  rw [State.probe]
  split
  · exact Or.inl rfl
  · split
    · exact Or.inl rfl
    · next e hf =>
      have hm := cacheFind_some _ _ _ hf
      split
      · exact Or.inr (Or.inl rfl)
      · next hl => exact Or.inr (Or.inr ⟨e, hm.1, hm.2, Nat.le_of_not_lt hl, rfl⟩)

/-- Everything the first access of a walk can do (R62). -/
theorem walkFirst_did (mayPark : Bool) (r : WalkRequest) (s : State) :
    WalkDid mayPark s.config.hopLimit s.config.hopLimit s (walkFirst mayPark r s) := by
  have weaken : ∀ s1 x, WalkDid mayPark s.config.hopLimit 0 s1 x →
      WalkDid mayPark s.config.hopLimit s.config.hopLimit s1 x := fun s1 x hd =>
    ⟨hd.frame, hd.records, hd.cache, hd.hop, fun a b e => Nat.le_trans (hd.ended a b e) (Nat.zero_le _),
      hd.parked⟩
  rw [walkFirst]
  split
  · exact WalkDid.ends _ _ _ _ _ _ (Nat.zero_le _)
  · exact WalkDid.ends _ _ _ _ _ _ (Nat.zero_le _)
  · next h _ =>
    rcases s.probe_cases h with hp | hp | ⟨e, he, _, hl, hp⟩ <;> rw [hp]
    · exact weaken _ _ (walkRead_did _ _ _ _ _ _ _ _)
    · have hd := weaken _ _ (walkRead_did mayPark r s.epoch s.config.hopLimit none h 0
        { s with cache := cacheDropOrigin s.cache h })
      exact ⟨hd.frame, hd.records, CacheDid.afterDrop s h _ hd.cache, hd.hop, hd.ended, hd.parked⟩
    · exact walkHit_did _ _ _ _ _ he hl

/-- Everything a later access of a walk can do (R63). -/
theorem walkNext_did (mayPark : Bool) (r : WalkRequest) (p : WalkProgress) (s : State) :
    WalkDid mayPark p.limit p.hops s (walkNext mayPark r p s) := walkRead_did _ _ _ _ _ _ _ _

end Sys2Proof.Machine
end

