-- ==== Sys2Proof/Laws/Bodies.lean ====
section
/-! SUPPORT. Everything the body of each access can do, one lemma a body: a completion that changes no
record, or the one change it makes, with what the record was. -/

namespace Sys2Proof.Machine

open Sys2Proof

/-! ### The named-record check and its users -/

/-- A record that passes the named-record check has the handle's generation and is neither FREE nor
WORN (R4). -/
theorem namedCheck_none (h : Handle) (r : Record) (hn : namedCheck h r = none) :
    (∃ o, r = .live h.gen o) ∨ (∃ o, r = .moving h.gen o) ∨ ∃ c target, r = .forwarded h.gen c target := by
  cases r with
  | free g => simp [namedCheck] at hn
  | worn => simp [namedCheck] at hn
  | live g o => simp only [namedCheck, ite_eq_left_iff, reduceCtorEq, imp_false, not_not] at hn; simp [hn]
  | moving g o =>
    simp only [namedCheck, ite_eq_left_iff, reduceCtorEq, imp_false, not_not] at hn; simp [hn]
  | forwarded g c t =>
    simp only [namedCheck, ite_eq_left_iff, reduceCtorEq, imp_false, not_not] at hn; simp [hn]

/-- The records a RETIRE may retire (R27). -/
theorem retireRefusal_none (h : Handle) (r : Record) (hn : retireRefusal h r = none) :
    (∃ o, r = .live h.gen o ∧ o.pins = 0#8) ∨ ∃ c target, r = .forwarded h.gen c target := by
  simp only [retireRefusal] at hn
  split at hn
  · cases hn
  · next hc =>
    rcases namedCheck_none h r hc with ⟨o, rfl⟩ | ⟨o, rfl⟩ | ⟨c, t, rfl⟩
    · left
      refine ⟨o, rfl, ?_⟩
      by_contra hp
      simp [hp] at hn
    · cases hn
    · exact Or.inr ⟨c, t, rfl⟩

/-- What the retire effect changes, field by field, on a record it may retire (R28). -/
theorem State.retire_eq (s : State) (n : Nat)
    (hr : (∃ g o, s.record n = .live g o) ∨ ∃ g c target, s.record n = .forwarded g c target) :
    s.retire n = { Safety.afterRetire s n with
      records := putRecord s.records n (Safety.spent (s.record n).gen) } := by
  rw [State.retire, Safety.afterRetire]
  rcases hr with ⟨g, o, h⟩ | ⟨g, c, t, h⟩ <;>
    simp only [h, State.retireCacheAction, Record.gen, Record.stateCode, retiredRecord, Safety.spent,
      Config.lastGen] <;>
    by_cases hg : g = 255#8 <;>
    simp [hg, State.setRecord, State.dropFinal, State.bumpEpoch, Safety.withoutFinal, cacheDropFinal]

/-! ### Accesses of the Command Unit -/

/-- CREATE's access (R25): NO_SLOT, or the head slot made LIVE. -/
theorem createBody_cases (args : Quad Word) (s : State) :
    (s.freeQueue = [] ∧ createBody args s = s.finish .create .noSlot)
      ∨ ∃ n rest v x, s.freeQueue = n :: rest
          ∧ createBody args s = { s with
              records := putRecord s.records n (.live (s.record n).gen (createdObject args))
              freeQueue := rest, events := v }.complete Cmd.create.code .done x := by
  rw [createBody]
  split
  · next h => exact Or.inl ⟨h, rfl⟩
  · next n rest h =>
    dsimp only
    split
    · exact Or.inr ⟨n, rest, _, _, h, rfl⟩
    · exact Or.inr ⟨n, rest, s.events, _, h, rfl⟩

/-- RETIRE's access: a refusal, or the retire effect on a record it may retire. -/
theorem retireBody_cases (args : Quad Word) (s : State) :
    (∃ o, retireBody args s = s.finish .retire o)
      ∨ ∃ n x, ((∃ g o, s.record n = .live g o ∧ o.pins = 0#8)
            ∨ ∃ g c target, s.record n = .forwarded g c target)
          ∧ retireBody args s = (s.retire n).complete Cmd.retire.code .done x := by
  rw [retireBody]
  dsimp only
  split
  · exact Or.inl ⟨_, rfl⟩
  · next hn =>
    refine Or.inr ⟨_, _, ?_, rfl⟩
    rcases retireRefusal_none _ _ hn with ⟨o, h, hp⟩ | ⟨c, t, h⟩
    · exact Or.inl ⟨_, o, h, hp⟩
    · exact Or.inr ⟨_, c, t, h⟩

theorem pinTarget_ok (h : Handle) (r : Record) (o : Object) (hp : pinTarget h r = .ok o) :
    r = .live h.gen o := by
  simp only [pinTarget] at hp
  split at hp
  · cases hp
  · next hc =>
    rcases namedCheck_none h r hc with ⟨o', rfl⟩ | ⟨o', rfl⟩ | ⟨c, t, rfl⟩
    · cases hp; rfl
    · cases hp
    · cases hp

/-- The window's PIN: a refusal, or one pin more. -/
theorem pinBody_cases (args : Quad Word) (s : State) :
    (∃ o, pinBody args s = s.finish .pin o)
      ∨ ∃ n g o x, s.record n = .live g o ∧ o.pins ≠ 255#8
          ∧ pinBody args s = (s.setRecord n (.live g { o with pins := o.pins + 1#8 })).complete
              Cmd.pin.code .done x := by
  rw [pinBody]
  split
  · exact Or.inl ⟨_, rfl⟩
  · next o h =>
    split
    · exact Or.inl ⟨_, rfl⟩
    · next hp => exact Or.inr ⟨_, _, o, _, pinTarget_ok _ _ _ h, hp, rfl⟩

/-- The window's UNPIN: a refusal, or one pin less. -/
theorem unpinBody_cases (args : Quad Word) (s : State) :
    (∃ o, unpinBody args s = s.finish .unpin o)
      ∨ ∃ n g o x, s.record n = .live g o ∧ o.pins ≠ 0#8
          ∧ unpinBody args s = (s.setRecord n (.live g { o with pins := o.pins - 1#8 })).complete
              Cmd.unpin.code .done x := by
  rw [unpinBody]
  split
  · exact Or.inl ⟨_, rfl⟩
  · next o h =>
    split
    · exact Or.inl ⟨_, rfl⟩
    · next hp => exact Or.inr ⟨_, _, o, _, pinTarget_ok _ _ _ h, hp, rfl⟩

/-- The three preconditions of CLEAR_DIRECTORY (R35). -/
theorem clearBlockers_zero (s : State) (h : clearBlockers s = 0) :
    s.gate = .closed ∧ s.sweep.state = .idle ∧ ∀ i, s.moves.get i = .idle := by
  rw [clearBlockers] at h
  have h1 : s.gate = .closed := by by_contra c; simp [c] at h
  have h2 : s.sweep.state = .idle := by by_contra c; simp [c] at h
  have h3 : s.movesEmpty = true := by by_contra c; simp [c] at h
  refine ⟨h1, h2, fun i => ?_⟩
  simp only [State.movesEmpty, quadIndices, List.all_cons, List.all_nil, Bool.and_true,
    Bool.and_eq_true, MoveEntry.isIdle, beq_iff_eq] at h3
  obtain ⟨a, b, c, d⟩ := h3
  fin_cases i
  · exact a
  · exact b
  · exact c
  · exact d

/-- The clear access: BUSY, or the reset contents of the directory (R35 to R37). -/
theorem clearBody_cases (args : Quad Word) (s : State) :
    (∃ x, clearBody args s = s.complete Cmd.clearDirectory.code .busy x)
      ∨ clearBlockers s = 0 ∧ ∃ x, clearBody args s =
          { s with records := [], freeQueue := allSlots, wornCount := 0, cache := []
                   epoch := 0#16 }.complete Cmd.clearDirectory.code .done x := by
  rw [clearBody]
  split
  · exact Or.inl ⟨_, rfl⟩
  · next h => exact Or.inr ⟨by simpa using h, _, rfl⟩

/-- ALTER's access: a refusal, or the fields of a LIVE or a MOVING record replaced (R15). -/
theorem alterBody_cases (args : Quad Word) (s : State) :
    (∃ o, alterBody args s = s.finish .alter o)
      ∨ ∃ n o r, ((∃ g, s.record n = .live g o ∧ r = .live g (alteredObject args.at1 o))
            ∨ ∃ g, s.record n = .moving g o ∧ r = .moving g (alteredObject args.at1 o))
          ∧ alterBody args s = ((s.setRecord n r).alterCacheAction args.at1 n).finish .alter .done := by
  rw [alterBody]
  split
  · exact Or.inl ⟨_, rfl⟩
  · split
    · next g o h => exact Or.inr ⟨_, o, _, Or.inl ⟨g, h, rfl⟩, rfl⟩
    · next g o h => exact Or.inr ⟨_, o, _, Or.inr ⟨g, h, rfl⟩, rfl⟩
    all_goals exact Or.inl ⟨_, rfl⟩

/-- RESIZE's access: a refusal, or a new length of a LIVE record (R16). -/
theorem resizeBody_cases (args : Quad Word) (s : State) :
    (∃ o, resizeBody args s = s.finish .resize o)
      ∨ ∃ n g o x, s.record n = .live g o ∧ extentFits o.ext.base args.at1.toNat = true
          ∧ resizeBody args s =
              ((s.setRecord n (.live g { o with ext := { o.ext with length := args.at1.toNat } })).dropFinal
                n).complete Cmd.resize.code .done x := by
  rw [resizeBody]
  dsimp only
  split
  · exact Or.inl ⟨_, rfl⟩
  · split
    · next g o h =>
      split
      · next hf => exact Or.inr ⟨_, g, o, _, h, hf, rfl⟩
      · exact Or.inl ⟨_, rfl⟩
    all_goals exact Or.inl ⟨_, rfl⟩

theorem forwardable_some (source : Handle) (r : Record) (cls : BitVec 8)
    (h : forwardable source r = some cls) :
    (∃ o, r = .live source.gen o ∧ o.pins = 0#8 ∧ o.cls = cls)
      ∨ ∃ old, r = .forwarded source.gen cls old := by
  cases r with
  | live g o =>
    simp only [forwardable, Option.ite_none_right_eq_some, Option.some.injEq] at h
    obtain ⟨⟨rfl, hp⟩, hc⟩ := h
    exact Or.inl ⟨o, rfl, hp, hc⟩
  | forwarded g c t =>
    simp only [forwardable, Option.ite_none_right_eq_some, Option.some.injEq] at h
    obtain ⟨rfl, rfl⟩ := h
    exact Or.inr ⟨t, rfl⟩
  | free g => cases h
  | moving g o => cases h
  | worn => cases h

/-- FORWARD's final access: CONTENDED, or the record made a forwarder and the epoch raised (R92, R93). -/
theorem finalBody_cases (source target : Handle) (snapshot : BitVec 16) (final : Handle) (k : Nat)
    (s : State) :
    (∃ o, finalBody source target snapshot final k s = s.finish .forward o)
      ∨ ∃ cls x, ((∃ o, s.record source.slot = .live source.gen o ∧ o.pins = 0#8 ∧ o.cls = cls)
            ∨ ∃ old, s.record source.slot = .forwarded source.gen cls old)
          ∧ s.epoch = snapshot
          ∧ finalBody source target snapshot final k s = { s with
              records := putRecord s.records source.slot (.forwarded source.gen cls target)
              cache := [], epoch := s.epoch + 1#16 }.complete Cmd.forward.code .done x := by
  rw [finalBody]
  dsimp only
  split
  · exact Or.inl ⟨_, rfl⟩
  · next cls hf =>
    split
    · exact Or.inl ⟨_, rfl⟩
    · next he =>
      rw [ne_eq, Decidable.not_not] at he
      refine Or.inr ⟨cls, ⟨final.word, wordOf k, wordOf (s.epoch + 1#16).toNat⟩,
        forwardable_some _ _ _ hf, he, ?_⟩
      rcases forwardable_some _ _ _ hf with ⟨o, h, _⟩ | ⟨old, h⟩ <;> rw [h] <;> rfl

/-- What the checks of R106 from check 6 on leave for a MOVE_BEGIN that passes. -/
theorem moveBeginEntry_ok (s : State) (n : Nat) (b : Word) (o : Object) (i : Fin 4)
    (h : moveBeginEntry s n b o = .ok i) :
    extentFits b o.ext.length = true ∧ (∀ j, s.moves.get j ≠ .lapsed n) ∧ s.moves.get i = .idle := by
  rw [moveBeginEntry] at h
  split at h
  · cases h
  · next hf =>
    split at h
    · cases h
    · next hl =>
      split at h
      · cases h
      · next j hj =>
        cases h
        refine ⟨by simpa using hf, fun j hj => ?_, by simpa [MoveEntry.isIdle] using ((Quad.find_eq_some _ _ _).mp hj).1⟩
        have hn : s.moves.find (fun e => e.lapsedOn n) = none := by
          cases hc : s.moves.find (fun e => e.lapsedOn n) with
          | none => rfl
          | some x => rw [hc] at hl; exact absurd rfl hl
        have := (Quad.find_eq_none _ _).mp hn j
        simp [MoveEntry.lapsedOn, hj] at this

/-- MOVE_BEGIN's access: a refusal, or the opening of a move (R106, R107). -/
theorem moveBeginBody_cases (args : Quad Word) (s : State) :
    (∃ o, moveBeginBody args s = s.finish .moveBegin o)
      ∨ ∃ h o i x, s.record h.slot = .live h.gen o ∧ o.pins = 0#8
          ∧ moveBeginEntry s h.slot args.at1 o = .ok i
          ∧ moveBeginBody args s = (s.openMove h o i args.at1).complete Cmd.moveBegin.code .done x := by
  rw [moveBeginBody]
  split
  · exact Or.inl ⟨_, rfl⟩
  · next hc =>
    rcases namedCheck_none _ _ hc with ⟨o, h⟩ | ⟨o, h⟩ | ⟨c, t, h⟩ <;> rw [h] <;> dsimp only
    · split
      · exact Or.inl ⟨_, rfl⟩
      · next hp =>
        split
        · exact Or.inl ⟨_, rfl⟩
        · next i hi => exact Or.inr ⟨_, o, i, _, h, by simpa using hp, hi, rfl⟩
    · exact Or.inl ⟨_, rfl⟩
    · exact Or.inl ⟨_, rfl⟩

/-- MOVE_COMMIT's and MOVE_ABORT's access: an outcome without effect, the acknowledgement of a lapse, or
the end of a move (R112). -/
theorem endMoveBody_cases (k : Cmd) (base : Word → Word → Word) (args : Quad Word) (s : State) :
    (∃ o, endMoveBody k base args s = s.finish k o)
      ∨ (∃ i n, s.moves.get i = .lapsed n
          ∧ endMoveBody k base args s = { s with moves := s.moves.set i .idle }.finish k .lapsed)
      ∨ ∃ i n b remaining x, s.moves.get i = .copying n b remaining
          ∧ endMoveBody k base args s =
              (s.endMove n (base (s.record n).base b) i .idle).complete k.code .done x := by
  rw [endMoveBody]
  split
  · exact Or.inl ⟨_, rfl⟩
  · next i hi =>
    have hn := ((Quad.find_eq_some _ _ _).mp hi).1
    split
    · exact Or.inl ⟨_, rfl⟩
    · next n h => exact Or.inr (Or.inl ⟨i, n, h, rfl⟩)
    · next n b remaining h =>
      split
      · exact Or.inl ⟨_, rfl⟩
      · rw [h] at hn
        have hs : n = (Handle.ofWord args.at0).slot := by simpa [MoveEntry.names] using hn
        exact Or.inr (Or.inr ⟨i, n, b, remaining, _, h, by rw [hs]⟩)

/-! ### Accesses of walks, of link UNPINs and of the Move Timer -/

/-- The shortcut access: nothing, or another forward target of a forwarder (R73). -/
theorem applyShortcut_cases (c : Shortcut) (s : State) :
    applyShortcut c s = s
      ∨ ∃ g k target, s.record c.slot = .forwarded g k target
          ∧ applyShortcut c s = s.setRecord c.slot (.forwarded g k c.final) := by
  rw [applyShortcut]
  split
  · next g k target h =>
    split
    · exact Or.inr ⟨g, k, target, h, rfl⟩
    · exact Or.inl rfl
  all_goals exact Or.inl rfl

theorem linkUnpin_ok (h : Handle) (d : BitVec 4) (r : Record) (o : Object)
    (hk : Machine.linkUnpin h d r = .ok o) :
    ∃ old, r = .live h.gen old ∧ old.pins ≠ 0#8 ∧ o = { old with pins := old.pins - 1#8 } := by
  cases r with
  | live g old =>
    rw [Machine.linkUnpin] at hk
    split at hk
    · cases hk
    · next hg =>
      split at hk
      · cases hk
      · split at hk
        · cases hk
        · next hp =>
          cases hk
          exact ⟨old, by rw [ne_eq, Decidable.not_not] at hg; rw [hg], hp, rfl⟩
  | free g => cases hk
  | worn => rw [Machine.linkUnpin] at hk; split at hk <;> cases hk
  | moving g o => rw [Machine.linkUnpin] at hk; split at hk <;> cases hk
  | forwarded g c t => rw [Machine.linkUnpin] at hk; split at hk <;> cases hk

/-- A link UNPIN's access: a refusal, or one pin less, each with a response of hop count 0 (R143). -/
theorem linkUnpinBody_cases (r : LinkRequest) (s : State) :
    (∃ o, linkUnpinBody r s = s.place r (refusedWalk o 0 false))
      ∨ ∃ n g o, s.record n = .live g o ∧ o.pins ≠ 0#8
          ∧ linkUnpinBody r s = (s.setRecord n (.live g { o with pins := o.pins - 1#8 })).place r
              (refusedWalk .done 0 false) := by
  rw [linkUnpinBody]
  split
  · exact Or.inl ⟨_, rfl⟩
  · next o h =>
    obtain ⟨old, h1, h2, h3⟩ := linkUnpin_ok _ _ _ _ h
    exact Or.inr ⟨_, _, old, h1, h2, by rw [h3]⟩

/-- An expiry access: nothing, or the lapse of a move whose count is 0 (R115). -/
theorem State.expireEntry_cases (s : State) (i : Fin 4) :
    s.expireEntry i = s
      ∨ ∃ n b, s.moves.get i = .copying n b 0
          ∧ s.expireEntry i = (s.endMove n (s.record n).base i (.lapsed n)).raise .moveLapsed := by
  rw [State.expireEntry]
  split
  · next n b h => exact Or.inr ⟨n, b, h, rfl⟩
  all_goals exact Or.inl rfl

/-! ### The visit of a sweep -/

/-- The end of a visit changes the Sweep Unit and the event flags alone (R125). -/
theorem State.advanceSweep_frame (s : State) :
    s.advanceSweep = { s with sweep := s.advanceSweep.sweep, events := s.advanceSweep.events } := by
  rw [State.advanceSweep]
  dsimp only
  split
  · rfl
  · split <;> rfl

/-- A record that matches a RETIRE and is not skipped (R127). -/
theorem sweepRetires_true (r : Record) (h : sweepRetires r = true) :
    (∃ g o, r = .live g o ∧ o.pins = 0#8) ∨ ∃ g c target, r = .forwarded g c target := by
  cases r with
  | live g o => exact Or.inl ⟨g, o, rfl, by simpa [sweepRetires] using h⟩
  | forwarded g c t => exact Or.inr ⟨g, c, t, rfl⟩
  | free g => cases h
  | moving g o => cases h
  | worn => cases h

/-- What a visit does to the record at the cursor: nothing, the retire effect, or another class (R126 to
R128). -/
theorem State.sweepAct_cases (s : State) (n : Nat) :
    (∃ u, s.sweepAct n = { s with sweep := u })
      ∨ (∃ u, ((∃ g o, s.record n = .live g o ∧ o.pins = 0#8)
            ∨ ∃ g c target, s.record n = .forwarded g c target)
          ∧ s.sweepAct n = { s.retire n with sweep := u })
      ∨ ∃ u c, s.sweepAct n = { s.setRecord n ((s.record n).withClass c) with sweep := u } := by
  rw [State.sweepAct]
  dsimp only
  split
  · exact Or.inl ⟨_, rfl⟩
  · split
    · next h => exact Or.inr (Or.inl ⟨_, sweepRetires_true _ h, rfl⟩)
    · exact Or.inl ⟨_, rfl⟩
  · exact Or.inr (Or.inr ⟨_, _, rfl⟩)

/-- Everything a visit can do beside the Sweep Unit's own fields and the event flags. -/
theorem visitBody_cases (s : State) :
    (∃ u v, visitBody s = { s with sweep := u, events := v })
      ∨ (∃ n u v, ((∃ g o, s.record n = .live g o ∧ o.pins = 0#8)
            ∨ ∃ g c target, s.record n = .forwarded g c target)
          ∧ visitBody s = { s.retire n with sweep := u, events := v })
      ∨ ∃ n c u v, visitBody s =
          { s.setRecord n ((s.record n).withClass c) with sweep := u, events := v } := by
  rw [visitBody]
  split
  · rw [State.advanceSweep_frame]
    rcases s.sweepAct_cases s.sweep.cursor with ⟨u, h⟩ | ⟨u, hr, h⟩ | ⟨u, c, h⟩ <;> rw [h]
    · exact Or.inl ⟨_, _, rfl⟩
    · exact Or.inr (Or.inl ⟨_, _, _, hr, rfl⟩)
    · exact Or.inr (Or.inr ⟨_, c, _, _, rfl⟩)
  · rw [State.advanceSweep_frame]
    exact Or.inl ⟨_, _, rfl⟩

/-! ### Handing on -/

/-- A walk engine's hand-on leaves the Record Store and the cache as the access left them. -/
theorem engineHandOn_records (e : EngineId) (r : LinkRequest) (x : State × WalkStep) :
    (engineHandOn e r x).records = x.1.records := by
  rw [engineHandOn]; split <;> simp

theorem engineHandOn_cache (e : EngineId) (r : LinkRequest) (x : State × WalkStep) :
    (engineHandOn e r x).cache = x.1.cache := by
  rw [engineHandOn]; split <;> simp

theorem commandHandOn_records (c : Command) (r : WalkRequest) (x : State × WalkStep) :
    (commandHandOn c r x).records = x.1.records := by
  rw [commandHandOn]; split <;> simp [State.completeLookup]

theorem commandHandOn_cache (c : Command) (r : WalkRequest) (x : State × WalkStep) :
    (commandHandOn c r x).cache = x.1.cache := by
  rw [commandHandOn]; split <;> simp [State.completeLookup]

/-- A walk engine's hand-on, field by field beside the engines, the responses, the Park List, the gate
and the events. -/
theorem engineHandOn_frame (e : EngineId) (r : LinkRequest) (x : State × WalkStep) :
    engineHandOn e r x = { x.1 with
      engineA := (engineHandOn e r x).engineA, engineB := (engineHandOn e r x).engineB
      responses := (engineHandOn e r x).responses, parkList := (engineHandOn e r x).parkList
      gate := (engineHandOn e r x).gate, events := (engineHandOn e r x).events } := by
  obtain ⟨t, w⟩ := x
  rw [engineHandOn]
  cases w
  case hop => cases e <;> rfl
  case ended result next =>
    cases next with
    | none =>
      simp only [State.settleEngine]
      rcases State.testDrain_cases ((t.place r result).setEngine e .idle) with h | ⟨_, _, h⟩ <;>
        rw [h] <;> cases e <;> rfl
    | some c => cases e <;> rfl
  case parked slot next =>
    cases next with
    | none =>
      simp only [State.settleEngine]
      rcases State.testDrain_cases ((t.park r slot).setEngine e .idle) with h | ⟨_, _, h⟩ <;>
        rw [h] <;> cases e <;> rfl
    | some c => cases e <;> rfl

/-- The Command Unit's hand-on changes the command in progress and what a completion writes. -/
theorem commandHandOn_frame (c : Command) (r : WalkRequest) (x : State × WalkStep) :
    commandHandOn c r x = { x.1 with
      cmd := (commandHandOn c r x).cmd, results := (commandHandOn c r x).results
      lastOutcome := (commandHandOn c r x).lastOutcome
      lastCommand := (commandHandOn c r x).lastCommand, events := (commandHandOn c r x).events } := by
  rw [commandHandOn]
  split <;> rfl

end Sys2Proof.Machine
end

