-- ==== Sys2Proof/Laws/Step.lean ====
section
/-! SUPPORT. What a step can do, said once: a predicate that each named operation and each body of an
access keeps is kept by every event and by every step. -/

namespace Sys2Proof.Machine

open Sys2Proof

/-- What the acceptance of a command that waits for an access has tested (R24, R16, R105), and the phase
it waits in. -/
structure Begins (k : Cmd) (args : Quad Word) (phase : CmdPhase) : Prop where
  create : k = .create → createArgumentsOk args = true
  resize : k = .resize → legalLength args.at1.toNat = true
  moveBegin : k = .moveBegin → aligned16 args.at1 = true
  waits : phase = .single ∨ (∃ r, phase = .walkOpening r) ∨ ∃ source target, phase = .fromCheck source target

/-- A predicate of states that every effect of an event keeps; with `clears` false, every effect but
those that clear or reset the whole directory. -/
structure Kept (clears : Bool) (P : State → Prop) : Prop where
  grant : ∀ s c, P s → P (s.grant c)
  raise : ∀ s e, P s → P (s.raise e)
  complete : ∀ s c o x, P s → P (s.complete c o x)
  begins : ∀ s k args phase, Begins k args phase → P s → P (s.begin k args phase)
  writeArgs : ∀ s a, P s → P { s with args := a }
  events : ∀ s v, P s → P { s with events := v }
  enables : ∀ s v, P s → P { s with eventEnable := v }
  acks : ∀ s a, P s → P { s with acks := a }
  -- commands that act at acceptance
  sweepStart : ∀ s sel, selectionOk sel = true → s.sweep.state = .idle → P s →
    P { s with sweep := startedSweep sel }
  sweepStop : ∀ s, s.sweep.state = .running → P s → P { s with sweep := { s.sweep with state := .stopping } }
  linkOpen : ∀ s, P s → P { s with gate := .opened }
  closeGate : ∀ s, P s → P s.closeGate
  portDomain : ∀ s p d, 1 ≤ d → d ≤ 15 → P s →
    P { s with portDomains := s.portDomains.set p (BitVec.ofNat 4 d) }
  config : ∀ s f v, configInRange f v = true → P s → P { s with config := s.config.write f v }
  -- accesses of the Command Unit
  create : ∀ s args, s.cmd = some ⟨.create, args, .single⟩ → P s → P (createBody args s)
  retire : ∀ s args, s.cmd = some ⟨.retire, args, .single⟩ → P s → P (retireBody args s)
  pin : ∀ s args, s.cmd = some ⟨.pin, args, .single⟩ → P s → P (pinBody args s)
  unpin : ∀ s args, s.cmd = some ⟨.unpin, args, .single⟩ → P s → P (unpinBody args s)
  clear : clears = true → ∀ s args, s.cmd = some ⟨.clearDirectory, args, .single⟩ → P s → P (clearBody args s)
  alter : ∀ s args, s.cmd = some ⟨.alter, args, .single⟩ → P s → P (alterBody args s)
  resize : ∀ s args, s.cmd = some ⟨.resize, args, .single⟩ → P s → P (resizeBody args s)
  cacheEn : ∀ s args, s.cmd = some ⟨.setConfig, args, .single⟩ → P s → P (cacheEnBody args s)
  fromCheck : ∀ s c source target, s.cmd = some c → c.phase = .fromCheck source target → P s →
    P { s with cmd := some { c with phase := .checkWalk source target s.epoch target 1 } }
  checkHop : ∀ s c source target snapshot h k next, s.cmd = some c →
    c.phase = .checkWalk source target snapshot h k → P s →
    P { s with cmd := some { c with phase := .checkWalk source target snapshot next (k + 1) } }
  checkPass : ∀ s c source target snapshot h k, s.cmd = some c →
    c.phase = .checkWalk source target snapshot h k → P s →
    P { s with cmd := some { c with phase := .final source target snapshot h k } }
  forwardFinal : ∀ s c source target snapshot h k, s.cmd = some c →
    c.phase = .final source target snapshot h k → P s → P (finalBody source target snapshot h k s)
  moveBegin : ∀ s args, s.cmd = some ⟨.moveBegin, args, .single⟩ → P s → P (moveBeginBody args s)
  moveEnd : ∀ s k base args, (∀ old new : Word, base old new = old ∨ base old new = new) →
    s.cmd = some ⟨k, args, .single⟩ → P s → P (endMoveBody k base args s)
  -- walks
  commandFirst : ∀ s c r, s.cmd = some c → c.phase = .walkOpening r → P s →
    P (commandHandOn c r (walkFirst false r s))
  commandHop : ∀ s c r p, s.cmd = some c → c.phase = .walking r p → P s →
    P (commandHandOn c r (walkNext false r p s))
  commandShortcut : ∀ s c sc x, s.cmd = some c → c.phase = .walkShortcut sc x → P s →
    P ((applyShortcut sc s).completeLookup c x)
  engineFirst : ∀ s e r, s.engine e = .opening r → P s → P (engineHandOn e r (walkFirst true r.req s))
  engineHop : ∀ s e r p, s.engine e = .walking r p → P s →
    P (engineHandOn e r (walkNext true r.req p s))
  engineShortcut : ∀ s e c, s.engine e = .shortcut c → P s → P ((applyShortcut c s).settleEngine e none)
  linkUnpin : ∀ s e r, s.engine e = .unpinning r → P s → P ((linkUnpinBody r s).settleEngine e none)
  takeReleased : ∀ s e r rest, s.engine e = .idle → s.releaseQueue = r :: rest → P s →
    P (takeRequest e r { s with releaseQueue := rest })
  takeLookup : ∀ s e r rest, s.engine e = .idle → s.releaseQueue = [] → s.lookupQueue = r :: rest → P s →
    P (takeRequest e r { s with lookupQueue := rest })
  -- the link
  acceptRequest : ∀ s r, s.gate = .opened → (s.ports.get r.port).credits ≠ 0 →
    r.tag ∉ (s.ports.get r.port).tags → P s → P (s.acceptRequest r)
  acceptResponse : ∀ s r rest, s.responses = r :: rest → P s → P (s.acceptResponse r rest)
  -- the Move Timer and the Sweep Unit
  clock : ∀ s, s.cycles + 1 < s.interval → P s → P { s with cycles := s.cycles + 1 }
  tick : ∀ s, P s → P s.deliverTick
  expiry : ∀ s i rest, s.expired = i :: rest → P s →
    P { s with expired := rest
               pendingExpiries := if s.pendingExpiries.contains i then s.pendingExpiries
                 else s.pendingExpiries ++ [i] }
  lapse : ∀ s i rest, s.expiries = i :: rest → P s →
    P { s.expireEntry i with pendingExpiries := rest, expired := [] }
  visit : ∀ s, s.sweep.state ≠ .idle → P s → P (visitBody s)
  -- resets
  powerOn : clears = true → ∀ (s : State) phase, P s → P { s.powerOn with phase := phase }
  windowReset : clears = true → ∀ s, P s → P { s.windowResetState with phase := .resetting }
  windowResetComplete : ∀ s, s.phase = .resetting → P s → P { s with phase := .running }

namespace Kept

variable {clears : Bool} {P : State → Prop}

theorem finish (h : Kept clears P) (s : State) (k : Cmd) (o : OutcomeCode) (hs : P s) : P (s.finish k o) :=
  h.complete s k.code o noResults hs

theorem submit (h : Kept clears P) (s : State) (accept : Quad Word → State → State) (hs : P s)
    (ha : P (accept s.args s)) : P (s.submit accept) := by
  rcases s.submit_cases accept with e | e | ⟨_, e⟩ <;> rw [e]
  · exact hs
  · exact h.raise s .collide hs
  · exact ha

theorem access (h : Kept clears P) (s : State) (c : Client) (body : State → State) (hs : P s)
    (hb : P (s.grant c) → P (body (s.grant c))) : P (s.access c body) := by
  rcases s.access_cases c body with e | ⟨_, e⟩ <;> rw [e]
  · exact hs
  · exact hb (h.grant s c hs)

theorem commandAccess (h : Kept clears P) (s : State) (k : Cmd) (body : Quad Word → State → State) (hs : P s)
    (hb : ∀ t args, t.cmd = some ⟨k, args, .single⟩ → P t → P (body args t)) :
    P (s.commandAccess k body) := by
  rcases s.commandAccess_cases k body with e | ⟨args, hv, e⟩ <;> rw [e]
  · exact hs
  · exact hb _ args hv.1 (h.grant s .commandUnit hs)

theorem whenRunning (s : State) (write : State → State) (hs : P s)
    (hw : P (write s)) : P (s.whenRunning write) := by
  rcases s.whenRunning_cases write with e | ⟨_, e⟩ <;> rw [e]
  · exact hs
  · exact hw

theorem acceptHandle (h : Kept clears P) (s : State) (k : Cmd) (args : Quad Word) (hs : P s)
    (hk : k ≠ .create ∧ k ≠ .resize ∧ k ≠ .moveBegin) : P (acceptHandle k args s) := by
  rw [Machine.acceptHandle]
  split
  · exact h.finish s k _ hs
  · exact h.begins s k args _ ⟨fun e => absurd e hk.1, fun e => absurd e hk.2.1,
      fun e => absurd e hk.2.2, Or.inl rfl⟩ hs

/-- Every COMMAND write with a code of Table 9-4 keeps what its effects keep. -/
theorem command (h : Kept clears P) (k : Cmd) (s t : State) (hs : P s) (he : execCommand k s = .next t) :
    P t := by
  cases k <;> simp only [execCommand, execCreate, execRetire, execPin, execUnpin, execClearDirectory,
    execAlter, execResize, execReadRecord, execLookup, execForward, execMoveBegin, execMoveCommit,
    execMoveAbort, execSweepStart, execSweepStop, execLinkOpen, execLinkClose, execSetPortDomain,
    execSetConfig, execReadConfig] at he <;> cases he <;> refine h.submit s _ hs ?_
  case create =>
    split
    · next hc => exact h.begins s _ _ _ ⟨fun _ => hc, by simp, by simp, Or.inl rfl⟩ hs
    · exact h.finish _ _ _ hs
  case retire => exact h.acceptHandle s _ _ hs (by decide)
  case pin => exact h.acceptHandle s _ _ hs (by decide)
  case unpin => exact h.acceptHandle s _ _ hs (by decide)
  case moveCommit => exact h.acceptHandle s _ _ hs (by decide)
  case moveAbort => exact h.acceptHandle s _ _ hs (by decide)
  case clearDirectory => exact h.begins s _ _ _ ⟨by simp, by simp, by simp, Or.inl rfl⟩ hs
  case alter =>
    split
    · exact h.finish _ _ _ hs
    · split
      · exact h.begins s _ _ _ ⟨by simp, by simp, by simp, Or.inl rfl⟩ hs
      · exact h.finish _ _ _ hs
  case resize =>
    split
    · exact h.finish _ _ _ hs
    · split
      · next hc => exact h.begins s _ _ _ ⟨by simp, fun _ => hc, by simp, Or.inl rfl⟩ hs
      · exact h.finish _ _ _ hs
  case readRecord =>
    split
    · exact h.begins s _ _ _ ⟨by simp, by simp, by simp, Or.inl rfl⟩ hs
    · exact h.finish _ _ _ hs
  case lookup =>
    split
    · exact h.finish _ _ _ hs
    · exact h.begins s _ _ _ ⟨by simp, by simp, by simp, Or.inr (Or.inl ⟨_, rfl⟩)⟩ hs
  case forward =>
    split
    · exact h.finish _ _ _ hs
    · split
      · exact h.finish _ _ _ hs
      · exact h.finish _ _ _ hs
      · split
        · exact h.complete _ _ _ _ hs
        · exact h.begins s _ _ _ ⟨by simp, by simp, by simp, Or.inr (Or.inr ⟨_, _, rfl⟩)⟩ hs
  case moveBegin =>
    split
    · exact h.finish _ _ _ hs
    · split
      · next hc => exact h.begins s _ _ _ ⟨by simp, by simp, fun _ => hc, Or.inl rfl⟩ hs
      · exact h.finish _ _ _ hs
  case sweepStart =>
    split
    · exact h.finish _ _ _ hs
    · next hi =>
      split
      · exact h.finish _ _ _ hs
      · split
        · next hc => exact h.complete _ _ _ _ (h.sweepStart s _ hc (by simpa using hi) hs)
        · exact h.finish _ _ _ hs
  case sweepStop =>
    split
    · next hi => exact h.finish _ _ _ (h.sweepStop s hi hs)
    · exact h.finish _ _ _ hs
    · exact h.finish _ _ _ hs
  case linkOpen => exact h.finish _ _ _ (h.linkOpen s hs)
  case linkClose => exact h.complete _ _ _ _ (h.closeGate s hs)
  case setPortDomain =>
    split
    · split
      · next hd => exact h.complete _ _ _ _ (h.portDomain s _ _ hd.1 hd.2 hs)
      · exact h.finish _ _ _ hs
    · exact h.finish _ _ _ hs
  case setConfig =>
    split
    · exact h.finish _ _ _ hs
    · split
      · exact h.finish _ _ _ hs
      · next hr =>
        split
        · exact h.begins s _ _ _ ⟨by simp, by simp, by simp, Or.inl rfl⟩ hs
        · exact h.complete _ _ _ _ (h.config s _ _ (by simpa using hr) hs)
  case readConfig =>
    split
    · exact h.finish _ _ _ hs
    · exact h.complete _ _ _ _ hs

/-- A COMMAND write of any code. -/
theorem unknownCommand (h : Kept clears P) (w : Word) (s t : State) (hs : P s)
    (he : execUnknownCommand w s = .next t) : P t := by
  rw [execUnknownCommand] at he
  split at he
  · exact h.command _ s t hs he
  · cases he
    exact h.submit s _ hs (h.complete _ _ _ _ hs)

/-- A write of WINDOW_RESET. -/
theorem windowResetWrite (h : Kept clears P) (v : Word) (s t : State) (hs : P s) (hc : clears = true)
    (he : execWindowReset v s = .next t) : P t := by
  rw [execWindowReset] at he
  cases he
  refine whenRunning s _ hs ?_
  dsimp only
  split
  · exact h.windowReset hc s hs
  · exact hs

/-- An access of a walk's first kind. -/
theorem walkFirstAccess (h : Kept clears P) (w : Walker) (s t : State) (hs : P s)
    (he : execWalkFirstAccess w s = .next t) : P t := by
  cases w with
  | commandUnit =>
    simp only [execWalkFirstAccess] at he
    cases he
    split
    · next c hc =>
      split
      · next r hp => exact h.access s _ _ hs fun hg => h.commandFirst _ c r hc hp hg
      · exact hs
    · exact hs
  | engine e =>
    simp only [execWalkFirstAccess] at he
    cases he
    split
    · next r hr => exact h.access s _ _ hs fun hg => h.engineFirst _ e r (by cases e <;> exact hr) hg
    · exact hs

/-- A later access of a walk. -/
theorem walkHopAccess (h : Kept clears P) (w : Walker) (s t : State) (hs : P s)
    (he : execWalkHopAccess w s = .next t) : P t := by
  cases w with
  | commandUnit =>
    simp only [execWalkHopAccess] at he
    cases he
    split
    · next c hc =>
      split
      · next r p hp => exact h.access s _ _ hs fun hg => h.commandHop _ c r p hc hp hg
      · exact hs
    · exact hs
  | engine e =>
    simp only [execWalkHopAccess] at he
    cases he
    split
    · next r p hr =>
      exact h.access s _ _ hs fun hg => h.engineHop _ e r p (by cases e <;> exact hr) hg
    · exact hs

/-- A shortcut access. -/
theorem shortcutAccess (h : Kept clears P) (w : Walker) (s t : State) (hs : P s)
    (he : execShortcutAccess w s = .next t) : P t := by
  cases w with
  | commandUnit =>
    simp only [execShortcutAccess] at he
    cases he
    split
    · next c hc =>
      split
      · next sc x hp => exact h.access s _ _ hs fun hg => h.commandShortcut _ c sc x hc hp hg
      · exact hs
    · exact hs
  | engine e =>
    simp only [execShortcutAccess] at he
    cases he
    split
    · next c hr => exact h.access s _ _ hs fun hg => h.engineShortcut _ e c (by cases e <;> exact hr) hg
    · exact hs

/-- Every event keeps what its effects keep. -/
theorem exec (h : Kept clears P) (i : Instr) (s t : State) (hs : P s)
    (hi : Safety.clearsDirectory i = true → clears = true) (he : Machine.exec i s = .next t) : P t := by
  cases i <;> simp only [Machine.exec] at he
  case create => exact h.command .create s t hs he
  case retire => exact h.command .retire s t hs he
  case pin => exact h.command .pin s t hs he
  case unpin => exact h.command .unpin s t hs he
  case clearDirectory => exact h.command .clearDirectory s t hs he
  case alter => exact h.command .alter s t hs he
  case resize => exact h.command .resize s t hs he
  case readRecord => exact h.command .readRecord s t hs he
  case lookup => exact h.command .lookup s t hs he
  case forward => exact h.command .forward s t hs he
  case moveBegin => exact h.command .moveBegin s t hs he
  case moveCommit => exact h.command .moveCommit s t hs he
  case moveAbort => exact h.command .moveAbort s t hs he
  case sweepStart => exact h.command .sweepStart s t hs he
  case sweepStop => exact h.command .sweepStop s t hs he
  case linkOpen => exact h.command .linkOpen s t hs he
  case linkClose => exact h.command .linkClose s t hs he
  case setPortDomain => exact h.command .setPortDomain s t hs he
  case setConfig => exact h.command .setConfig s t hs he
  case readConfig => exact h.command .readConfig s t hs he
  case unknownCommand w => exact h.unknownCommand w s t hs he
  case createAccess => cases he; exact h.commandAccess s _ _ hs h.create
  case retireAccess => cases he; exact h.commandAccess s _ _ hs h.retire
  case pinAccess => cases he; exact h.commandAccess s _ _ hs h.pin
  case unpinAccess => cases he; exact h.commandAccess s _ _ hs h.unpin
  case clearAccess => cases he; exact h.commandAccess s _ _ hs (h.clear (hi rfl))
  case alterAccess => cases he; exact h.commandAccess s _ _ hs h.alter
  case resizeAccess => cases he; exact h.commandAccess s _ _ hs h.resize
  case readRecordAccess =>
    cases he
    exact h.commandAccess s _ _ hs fun t args _ ht => h.complete _ _ _ _ ht
  case walkFirstAccess w => exact h.walkFirstAccess w s t hs he
  case walkHopAccess w => exact h.walkHopAccess w s t hs he
  case shortcutAccess w => exact h.shortcutAccess w s t hs he
  case fromAccess =>
    cases he
    split
    · next c hc =>
      split
      · next source target hp =>
        refine h.access s _ _ hs fun hg => ?_
        rw [fromBody]
        split
        · exact h.finish _ _ _ hg
        · exact h.fromCheck _ c source target hc hp hg
      · exact hs
    · exact hs
  case checkWalkAccess =>
    cases he
    split
    · next c hc =>
      split
      · next source target snapshot current k hp =>
        refine h.access s _ _ hs fun hg => ?_
        rw [checkBody]
        split
        · exact h.complete _ _ _ _ hg
        · exact h.checkHop _ c source target snapshot current k _ hc hp hg
        · exact h.checkPass _ c source target snapshot current k hc hp hg
      · exact hs
    · exact hs
  case forwardFinalAccess =>
    cases he
    split
    · next c hc =>
      split
      · next source target snapshot final k hp =>
        exact h.access s _ _ hs fun hg => h.forwardFinal _ c source target snapshot final k hc hp hg
      · exact hs
    · exact hs
  case moveBeginAccess => cases he; exact h.commandAccess s _ _ hs h.moveBegin
  case moveCommitAccess =>
    cases he
    exact h.commandAccess s _ _ hs fun t args hc ht =>
      h.moveEnd t _ _ args (fun _ _ => Or.inr rfl) hc ht
  case moveAbortAccess =>
    cases he
    exact h.commandAccess s _ _ hs fun t args hc ht =>
      h.moveEnd t _ _ args (fun _ _ => Or.inl rfl) hc ht
  case cacheEnAccess => cases he; exact h.commandAccess s _ _ hs h.cacheEn
  case linkUnpinAccess e =>
    cases he
    split
    · next r hr => exact h.access s _ _ hs fun hg => h.linkUnpin _ e r (by cases e <;> exact hr) hg
    · exact hs
  case sweepVisit =>
    cases he
    rcases s.access_cases .sweepUnit visitBody with e | ⟨hg, e⟩ <;> rw [e]
    · exact hs
    · have hw := (s.granted_waiting _ hg).2
      exact h.visit _ (by simpa [State.waiting] using hw) (h.grant s _ hs)
  case expiryAccess =>
    cases he
    split
    · exact hs
    · next i rest hp => exact h.access s _ _ hs fun hg => h.lapse _ i rest hp hg
  case linkRequest port word0 word1 word2 =>
    cases he
    refine whenRunning s _ hs ?_
    dsimp only
    split
    · next ha =>
      rw [State.acknowledge] at ha
      split at ha
      · cases ha
      · next hg =>
        split at ha
        · cases ha
        · next hc =>
          split at ha
          · cases ha
          · next ht =>
            exact h.acceptRequest _ _ (by simpa using hg) hc (by simpa using ht) (h.acks s _ hs)
    · exact h.acks s _ hs
  case responseAccept =>
    cases he
    refine whenRunning s _ hs ?_
    split
    · exact hs
    · next r rest hr => exact h.acceptResponse s r rest hr hs
  case walkTake =>
    cases he
    refine whenRunning s _ hs ?_
    split
    · exact hs
    · next e ht =>
      have hi : s.engine e = .idle := by
        rw [State.takingEngine] at ht
        split at ht
        · next ha => cases ht; exact ha
        · split at ht
          · next hb => cases ht; exact hb
          · cases ht
      split
      · next r rest hr => exact h.takeReleased s e r rest hi hr hs
      · next hr =>
        split
        · next r rest hl => exact h.takeLookup s e r rest hi hr hl hs
        · exact hs
  case tick => cases he; exact whenRunning s _ hs (h.tick s hs)
  case expiry =>
    cases he
    refine whenRunning s _ hs ?_
    split
    · exact hs
    · next i rest hx => exact h.expiry s i rest hx hs
  case resetAssert => cases he; exact h.powerOn (hi rfl) s .held hs
  case resetRelease =>
    cases he
    split
    · exact h.powerOn (hi rfl) s .running hs
    · exact hs
    · exact hs
  case windowReset v => exact h.windowResetWrite v s t hs (hi rfl) he
  case windowResetComplete =>
    cases he
    split
    · next hp => exact h.windowResetComplete s hp hs
    · exact hs
    · exact hs
  case eventsWrite v => cases he; exact whenRunning s _ hs (h.events s _ hs)
  case eventEnableWrite v => cases he; exact whenRunning s _ hs (h.enables s _ hs)
  case registerWrite w v =>
    cases w <;> simp only [execRegisterWrite] at he
    case command => exact h.unknownCommand v s t hs he
    case sweepSkipped => exact h.windowResetWrite v s t hs (hi rfl) he
    case events => cases he; exact whenRunning s _ hs (h.events s _ hs)
    case eventEnable => cases he; exact whenRunning s _ hs (h.enables s _ hs)
    case arg0 => cases he; exact whenRunning s _ hs (h.writeArgs s _ hs)
    case arg1 => cases he; exact whenRunning s _ hs (h.writeArgs s _ hs)
    case arg2 => cases he; exact whenRunning s _ hs (h.writeArgs s _ hs)
    case arg3 => cases he; exact whenRunning s _ hs (h.writeArgs s _ hs)
    all_goals cases he; exact hs

/-- Every step keeps what the effects of events keep. -/
theorem step (h : Kept true P) (hp : ∀ s l, P s → P { s with pending := l }) (s t : State) (hs : P s)
    (he : Machine.step s = .next t) : P t := by
  rw [Machine.step] at he
  split at he
  · cases he
    refine whenRunning s _ hs ?_
    split
    · next hc => exact h.clock s hc hs
    · exact h.tick s hs
  · exact h.exec _ _ t (hp s _ hs) (fun _ => rfl) he

end Kept

end Sys2Proof.Machine
end

