-- ==== Sys2Proof/Laws/Terms.lean ====
section
/-! SUPPORT. The model's tests and operations are what the terms of Safety.lean say: one lemma for each
pair, so that a proof about a statement need not take words apart. -/

namespace Sys2Proof.Machine

open Sys2Proof

/-! ### Words -/

theorem toNat_eq_zero_iff {n : Nat} (x : BitVec n) : x.toNat = 0 ↔ x = 0#n :=
  ⟨fun h => BitVec.eq_of_toNat_eq (by simpa using h), fun h => by rw [h]; rfl⟩

theorem bitVec2_cases : ∀ a : BitVec 2, a = 0#2 ∨ a = 1#2 ∨ a = 2#2 ∨ a = 3#2 := by decide

theorem toNat_succ_of_ne_last (x : BitVec 8) (h : x ≠ 255#8) : (x + 1#8).toNat = x.toNat + 1 := by
  have : x.toNat ≠ 255 := fun c => h (BitVec.eq_of_toNat_eq (by simpa using c))
  have := x.isLt
  rw [BitVec.toNat_add]
  simp
  omega

/-- Two fields agree in the bits a mask marks. -/
theorem masked_eq_zero_iff {n : Nat} (f p c : BitVec n) :
    (f ^^^ p) &&& c = 0#n ↔ ∀ i, c.getLsbD i = true → f.getLsbD i = p.getLsbD i := by
  constructor
  · intro h i hi
    have := congrArg (fun x => x.getLsbD i) h
    simpa [hi] using this
  · intro h
    apply BitVec.eq_of_getLsbD_eq
    intro i _
    cases hc : c.getLsbD i with
    | true => simp [h i hc]
    | false => simp [hc]

/-! ### Window accesses (R152) -/

/-- The word at a byte offset is the one that stands there. -/
@[simp] theorem wordAt_wordOffset (w : WindowWord) : wordAt (Safety.selectOf (wordOffset w)) = w := by
  cases w <;> rfl

/-- The table of offsets is the model's selection of words. -/
theorem wordAt_layout (p : Nat × WindowWord) (h : p ∈ Safety.windowLayout) :
    wordAt (Safety.selectOf p.1) = p.2 :=
  (by decide : ∀ p ∈ Safety.windowLayout, wordAt (Safety.selectOf p.1) = p.2) p h

/-- A write of the window has the effect of a register write of the selected word. -/
theorem exec_windowWrite (select : BitVec 4) (value : Word) (s : State) :
    exec (windowWrite select value) s = execRegisterWrite (wordAt select) value s := by
  unfold windowWrite
  cases wordAt select <;> try rfl
  · simp only [execRegisterWrite, execUnknownCommand, commandRow]
    cases h : commandOfCode (commandCode value) with
    | some k => cases k <;> rfl
    | none => simp only [exec, execUnknownCommand, h]
  · dsimp only [execRegisterWrite]
    split <;> rfl

/-- A write of the window is a well-formed event. -/
theorem windowWrite_wellFormed (select : BitVec 4) (value : Word) :
    (windowWrite select value).wellFormed = true := by
  unfold windowWrite
  cases wordAt select <;> try rfl
  · simp only [commandRow]
    cases h : commandOfCode (commandCode value) with
    | some k => cases k <;> rfl
    | none => simp [Instr.wellFormed, h]
  · dsimp only
    split
    · next h => exact h
    · next h => simpa [Instr.wellFormed, hasOwnRow] using h

/-! ### Handles (R2, R3) -/

theorem handleForm_malformed_iff (w : Word) : handleForm w = .malformed ↔ Safety.Malformed w := by
  simp only [handleForm, Safety.Malformed, bitsOf, Handle.ofWord, Ne, toNat_eq_zero_iff]
  by_cases h1 : w.extractLsb' 20 12 = 0#12 <;> by_cases h2 : w.extractLsb' 8 12 = 0#12 <;>
    by_cases h3 : w.extractLsb' 0 8 = 0#8 <;> simp [h1, h2, h3]

theorem handleForm_null_iff (w : Word) : handleForm w = .null ↔ Safety.Null w := by
  simp only [handleForm, Safety.Null, bitsOf, Handle.ofWord, Ne, toNat_eq_zero_iff]
  by_cases h1 : w.extractLsb' 20 12 = 0#12 <;> by_cases h2 : w.extractLsb' 8 12 = 0#12 <;>
    by_cases h3 : w.extractLsb' 0 8 = 0#8 <;> simp [h1, h2, h3]

theorem handleForm_named_iff (w : Word) (h : Handle) : handleForm w = .named h ↔ Safety.Spells w h := by
  simp only [handleForm, Safety.Spells, Safety.Malformed, Safety.Null, bitsOf, Handle.ofWord, Ne,
    toNat_eq_zero_iff]
  by_cases h1 : w.extractLsb' 20 12 = 0#12 <;> by_cases h2 : w.extractLsb' 8 12 = 0#12 <;>
    by_cases h3 : w.extractLsb' 0 8 = 0#8 <;> simp [h1, h2, h3, eq_comm]

theorem handleArgument_malformed (w : Word) (h : Safety.Malformed w) :
    handleArgument w = .error .badArgument := by
  simp [handleArgument, (handleForm_malformed_iff w).mpr h]

theorem handleArgument_null (w : Word) (h : Safety.Null w) :
    handleArgument w = .error .nullHandle := by
  simp [handleArgument, (handleForm_null_iff w).mpr h]

theorem handleArgument_ok (w : Word) (h1 : ¬ Safety.Malformed w) (h2 : ¬ Safety.Null w) :
    handleArgument w = .ok (Handle.ofWord w) := by
  have := (handleForm_named_iff w (Handle.ofWord w)).mpr ⟨h1, h2, rfl⟩
  simp [handleArgument, this]

/-- A stale handle is refused STALE by the named-record check (R4). -/
theorem namedCheck_stale (h : Handle) (r : Record) (hr : Safety.Stale h r) :
    namedCheck h r = some .stale := by
  obtain ⟨h1, h2⟩ := hr
  cases r <;> simp_all [namedCheck, Record.gen]

/-! ### Arguments of commands -/

theorem aligned16_iff (w : Word) : aligned16 w = true ↔ w.toNat % 16 = 0 := by simp [aligned16]

theorem legalLength_iff (n : Nat) :
    legalLength n = true ↔ (n % 16 = 0 ∧ 16 ≤ n ∧ n ≤ 16777216) := by
  simp [legalLength, and_assoc]

theorem extentFits_iff (b : Word) (n : Nat) :
    extentFits b n = true ↔ b.toNat + n ≤ 4294967296 := by simp [extentFits]

theorem createArgumentsOk_iff (args : Quad Word) :
    createArgumentsOk args = true ↔ Safety.CreateArgumentsPass args := by
  simp only [createArgumentsOk, Safety.CreateArgumentsPass, aligned16, legalLength, extentFits,
    packedFields, bitsOf, Bool.and_eq_true, decide_eq_true_eq, beq_iff_eq, Config.maxLength,
    Config.addressSpace, and_assoc]
  constructor
  · rintro ⟨a, b, c, d, e, f, g⟩
    exact ⟨a, b, c, d, e, of_decide_eq_true f, of_decide_eq_true g⟩
  · rintro ⟨a, b, c, d, e, f, g⟩
    exact ⟨a, b, c, d, e, decide_eq_true f, decide_eq_true g⟩

theorem domainOfBits (w : Word) : BitVec.ofNat 4 (w.extractLsb' 8 5).toNat = w.extractLsb' 8 4 := by
  apply BitVec.eq_of_toNat_eq
  simp only [BitVec.toNat_ofNat, BitVec.extractLsb'_toNat]
  rw [show (2 : Nat) ^ 5 = 2 ^ 4 * 2 from rfl, Nat.mod_mul_right_mod]

theorem classOfBits (w : Word) :
    BitVec.ofNat 8 (w.extractLsb' 16 9).toNat = w.extractLsb' 16 8 := by
  apply BitVec.eq_of_toNat_eq
  simp only [BitVec.toNat_ofNat, BitVec.extractLsb'_toNat]
  rw [show (2 : Nat) ^ 9 = 2 ^ 8 * 2 from rfl, Nat.mod_mul_right_mod]

theorem createdObject_eq (args : Quad Word) : createdObject args = Safety.objectOf args := by
  simp only [createdObject, Safety.objectOf, packedFields, bitOf, bitsOf, domainOfBits, classOfBits]

theorem alteredObject_eq (w : Word) (o : Object) : alteredObject w o = Safety.altered w o := by
  simp only [alteredObject, Safety.altered, alterSelect, packedFields, bitOf, bitsOf, domainOfBits,
    classOfBits]
  rfl

/-- Some bit of a field of a word is set. -/
theorem extract_ne_zero_iff (w : Word) (low count : Nat) :
    w.extractLsb' low count ≠ 0#count ↔ ∃ i, i < count ∧ w.getLsbD (low + i) = true := by
  constructor
  · intro h
    by_contra hn
    apply h
    apply BitVec.eq_of_getLsbD_eq
    intro i hi
    have : w.getLsbD (low + i) = false := by
      cases hc : w.getLsbD (low + i) with
      | false => rfl
      | true => exact absurd ⟨i, hi, hc⟩ hn
    simp [this]
  · rintro ⟨i, hi, hw⟩ h
    have := congrArg (fun x => x.getLsbD i) h
    simp [hi, hw] at this

theorem alterArgumentsOk_iff (w : Word) :
    alterArgumentsOk w = true ↔ Safety.AlterWordPasses w := by
  have e : (w.getLsbD 28 = true ∨ w.getLsbD 29 = true ∨ w.getLsbD 30 = true ∨ w.getLsbD 31 = true)
      ↔ w.extractLsb' 28 4 ≠ 0#4 := by
    rw [extract_ne_zero_iff]
    constructor
    · rintro (h | h | h | h)
      · exact ⟨0, by omega, h⟩
      · exact ⟨1, by omega, h⟩
      · exact ⟨2, by omega, h⟩
      · exact ⟨3, by omega, h⟩
    · rintro ⟨i, hi, h⟩
      have : i = 0 ∨ i = 1 ∨ i = 2 ∨ i = 3 := by omega
      rcases this with rfl | rfl | rfl | rfl
      · exact Or.inl h
      · exact Or.inr (Or.inl h)
      · exact Or.inr (Or.inr (Or.inl h))
      · exact Or.inr (Or.inr (Or.inr h))
  have a1 : (decide ((packedFields w).domain ≤ 15) = true) ↔ (w.extractLsb' 8 5).toNat ≤ 15 :=
    decide_eq_true_iff
  have a2 : (decide ((packedFields w).cls ≤ 255) = true) ↔ (w.extractLsb' 16 9).toNat ≤ 255 :=
    decide_eq_true_iff
  rw [Safety.AlterWordPasses, ← e]
  simp only [alterArgumentsOk, alterSelect, bitOf, Bool.and_eq_true, Bool.or_eq_true,
    Bool.not_eq_true']
  rw [a1, a2]
  cases w.getLsbD 30 <;> cases w.getLsbD 31 <;> simp

/-- ALTER removes cache entries when one of its first three flags is set (R15). -/
theorem alterRemoves_iff (w : Word) :
    ((alterSelect w).rights || (alterSelect w).shared || (alterSelect w).domain) = true
      ↔ ¬ w.extractLsb' 28 3 = 0#3 := by
  rw [← ne_eq, extract_ne_zero_iff]
  simp only [alterSelect, bitOf, Bool.or_eq_true]
  constructor
  · rintro ((h | h) | h)
    · exact ⟨0, by omega, h⟩
    · exact ⟨1, by omega, h⟩
    · exact ⟨2, by omega, h⟩
  · rintro ⟨i, hi, h⟩
    have : i = 0 ∨ i = 1 ∨ i = 2 := by omega
    rcases this with rfl | rfl | rfl
    · exact Or.inl (Or.inl h)
    · exact Or.inl (Or.inr h)
    · exact Or.inr h

theorem movesEmpty_iff (s : State) :
    s.movesEmpty = true ↔ s.moves = ⟨.idle, .idle, .idle, .idle⟩ := by
  simp only [State.movesEmpty]
  generalize s.moves = q
  obtain ⟨a, b, c, d⟩ := q
  simp [quadIndices, Quad.get, MoveEntry.isIdle]

theorem clearBlockers_eq (s : State) : clearBlockers s = Safety.blockers s := by
  simp only [clearBlockers, Safety.blockers, movesEmpty_iff]

/-! ### Requests and their checks -/

theorem walkMalformed_iff (r : WalkRequest) :
    walkMalformed r = true ↔ (Safety.Malformed r.origin ∨ r.size = 0 ∨ 256 < r.size
      ∨ r.access = .undefined ∨ 16777216 ≤ r.offset) := by
  simp only [walkMalformed, Bool.or_eq_true, beq_iff_eq, handleForm_malformed_iff, or_assoc]
  rw [decide_eq_true_iff, decide_eq_true_iff]

theorem linkMalformed_iff (r : WalkRequest) (ho : r.offset < 16777216) :
    linkMalformed r = true ↔ Safety.LinkMalformed r := by
  have hn : ¬ 16777216 ≤ r.offset := Nat.not_le_of_lt ho
  cases hk : r.kind <;>
    simp [Safety.LinkMalformed, linkMalformed, hk, walkMalformed_iff, handleForm_malformed_iff,
      handleForm_null_iff, hn]

theorem finalRefusal_eq (r : WalkRequest) (x : Extent) :
    finalRefusal r x = Safety.finalFailure r x := by
  unfold finalRefusal Safety.finalFailure domainPasses rightsPass
  cases hs : x.shared <;> cases ha : r.access <;> cases hr : x.rights.read <;>
    cases hw : x.rights.write <;> by_cases h1 : r.domain = 0#4 <;>
    by_cases h2 : r.domain = x.domain <;> simp_all

theorem moveCheckApplies_iff (r : WalkRequest) :
    moveCheckApplies r = true ↔ (r.access = .write ∨ r.kind = .lookupPin) := by
  simp [moveCheckApplies]

/-! ### Sweeps -/

theorem selectionOk_iff (sel : Selection) :
    selectionOk sel = true ↔ (1 ≤ sel.startSlot ∧ sel.startSlot ≤ 4095 ∧ 1 ≤ sel.endSlot
      ∧ sel.endSlot ≤ 4095 ∧ sel.startSlot ≤ sel.endSlot
      ∧ (sel.action = .count ∨ (sel.states.getLsbD 0 = false ∧ sel.states.getLsbD 4 = false))) := by
  simp only [selectionOk, statesHoldFreeOrWorn, Bool.and_eq_true, Bool.or_eq_true,
    decide_eq_true_eq, beq_iff_eq, Bool.not_eq_true', Bool.or_eq_false_iff, and_assoc]

theorem sweepFields_eq (r : Record) : r.sweepFields = Safety.compared r := by cases r <;> rfl

theorem matchesSelection_iff (sel : Selection) (r : Record) :
    matchesSelection sel r = true ↔ Safety.Matches sel r := by
  unfold matchesSelection fieldsMatch Safety.Matches
  rw [sweepFields_eq]
  simp only [Bool.and_eq_true, beq_iff_eq, masked_eq_zero_iff, Bool.or_eq_true, Bool.not_eq_true']
  cases sel.care.shared <;> simp [and_assoc]

/-- The end of a visit, with the counters it leaves (R125, R131). -/
theorem advanceSweep_eq (s : State) (m a k : Nat) :
    ({ s.grant .sweepUnit with
        sweep := { s.sweep with matched := m, acted := a, skipped := k } } : State).advanceSweep
      = Safety.visited s m a k := by
  unfold State.advanceSweep Safety.visited State.endSweep
  rfl

/-! ### Configuration fields -/

theorem configRead_eq (c : ConfigFields) (f : Nat) :
    c.read f = (Safety.fieldRange f).map (fun _ => Safety.fieldValue c f) := by
  match f with
  | 0 | 1 | 2 | 3 | 4 | 5 => rfl
  | n + 6 => rfl

theorem configInRange_iff (f v lo hi : Nat) (h : Safety.fieldRange f = some (lo, hi)) :
    configInRange f v = true ↔ lo ≤ v ∧ v ≤ hi := by
  match f with
  | 0 | 1 | 2 | 3 | 4 | 5 => cases h; simp [configInRange]
  | n + 6 => cases h

/-! ### The Move Table -/

/-- The entry that alone names a slot is the one the table's search finds (R112). -/
theorem moveOf_namedBy (s : State) (n : Nat) (j : Fin 4) (h : Safety.NamedBy s n j) :
    s.moveOf n = some j := by
  unfold State.moveOf
  rw [Quad.find_eq_some]
  refine ⟨h.1, fun i hi => ?_⟩
  cases hc : (s.moves.get i).names n with
  | false => rfl
  | true => exact absurd (h.2 i hc) (by omega)

/-! ### One record written -/

theorem record_of_put (s t : State) (n : Nat) (r : Record)
    (h : t.records = putRecord s.records n r) (k : Nat) :
    t.record k = if k = n then r else s.record k := by
  rw [State.record_eq, h, recordIn_putRecord]
  rfl

theorem record_put_same (s t : State) (n : Nat) (r : Record)
    (h : t.records = putRecord s.records n r) : t.record n = r := by
  rw [record_of_put s t n r h, if_pos rfl]

theorem recordsAgreeBut_put (s t : State) (n : Nat) (r : Record)
    (h : t.records = putRecord s.records n r) : Safety.RecordsAgreeBut s t n :=
  fun m hm => by rw [record_of_put s t n r h, if_neg hm]

end Sys2Proof.Machine
end

