-- ==== Sys2Proof/Laws/WalkAccess.lean ====
section
/-! SUPPORT. An access of a walk, in the terms of the statements: what it hands on, for the Command Unit
and for a walk engine alike. -/

namespace Sys2Proof.Machine

open Sys2Proof Sys2Proof.Safety

/-- Whether a walker may park: the walk engines (R78). -/
def parks : Walker → Bool
  | .commandUnit => false
  | .engine _ => true

/-- What a walker makes of one access's outcome. -/
def handOn (w : Walker) (s : State) (r : WalkRequest) (x : State × WalkStep) : State :=
  match w with
  | .commandUnit =>
    match s.cmd with
    | some c => commandHandOn c r x
    | none => x.1
  | .engine e =>
    match requestOf (s.engine e) with
    | some q => engineHandOn e q x
    | none => x.1

/-- The first access of a walk, granted (R62). -/
theorem exec_walkFirst (s : State) (w : Walker) (r : WalkRequest) (h : Opens s w r) :
    exec (.walkFirstAccess w) s =
      .next (handOn w s r (walkFirst (parks w) r (s.grant (walkerClient w)))) := by
  obtain ⟨hg, hm⟩ := h
  cases w with
  | commandUnit =>
    obtain ⟨args, hc⟩ := hm
    simp only [exec, execWalkFirstAccess, hc, handOn]
    exact congrArg _ (s.access_granted _ _ hg)
  | engine e =>
    obtain ⟨q, hq, rfl⟩ := hm
    cases e <;> simp only [exec, execWalkFirstAccess, hq, handOn, requestOf, engineClient] <;>
      exact congrArg _ (s.access_granted _ _ hg)

/-- A later access of a walk, granted (R63). -/
theorem exec_walkHop (s : State) (w : Walker) (r : WalkRequest) (p : WalkProgress)
    (h : Hops s w r p) :
    exec (.walkHopAccess w) s =
      .next (handOn w s r (walkNext (parks w) r p (s.grant (walkerClient w)))) := by
  obtain ⟨hg, hm⟩ := h
  cases w with
  | commandUnit =>
    obtain ⟨args, hc⟩ := hm
    simp only [exec, execWalkHopAccess, hc, handOn]
    exact congrArg _ (s.access_granted _ _ hg)
  | engine e =>
    obtain ⟨q, hq, rfl⟩ := hm
    cases e <;> simp only [exec, execWalkHopAccess, hq, handOn, requestOf, engineClient] <;>
      exact congrArg _ (s.access_granted _ _ hg)

/-- A walker has a walk in `s`, and `t` holds the same command and engines. -/
structure SameWalk (s t : State) (w : Walker) : Prop where
  cmd : t.cmd = s.cmd
  engine : ∀ e, t.engine e = s.engine e
  walks : match w with
    | .commandUnit => ∃ args phase, s.cmd = some ⟨.lookup, args, phase⟩
    | .engine e => ∃ q, requestOf (s.engine e) = some q

theorem SameWalk.of_opens (s : State) (w : Walker) (r : WalkRequest) (h : Opens s w r) :
    SameWalk s s w := by
  refine ⟨rfl, fun _ => rfl, ?_⟩
  cases w with
  | commandUnit => obtain ⟨_, args, hc⟩ := h; exact ⟨args, _, hc⟩
  | engine e => obtain ⟨_, q, hq, _⟩ := h; exact ⟨q, by rw [hq]; rfl⟩

theorem SameWalk.of_hops (s : State) (w : Walker) (r : WalkRequest) (p : WalkProgress)
    (h : Hops s w r p) : SameWalk s s w := by
  refine ⟨rfl, fun _ => rfl, ?_⟩
  cases w with
  | commandUnit => obtain ⟨_, args, hc⟩ := h; exact ⟨args, _, hc⟩
  | engine e => obtain ⟨_, q, hq, _⟩ := h; exact ⟨q, by rw [hq]; rfl⟩

/-- A state with other records and another cache still holds the walk. -/
theorem SameWalk.records (s t : State) (w : Walker) (m : Store) (c : List CacheEntry)
    (h : SameWalk s t w) : SameWalk s { t with records := m, cache := c } w :=
  ⟨h.cmd, fun e => by cases e; exact h.engine .a; exact h.engine .b, h.walks⟩

/-- A probe that finds no entry for the origin, or is not made (R46). -/
theorem State.probe_misses (s : State) (h : Handle)
    (hc : s.config.cacheEn = false ∨ ∀ e ∈ s.cache, e.origin ≠ h) : s.probe h = (s, none) := by
  rw [State.probe]
  split
  · rfl
  · next he =>
    have := hc.resolve_left he
    rw [(cacheFind_none s.cache h).mpr this]

/-- A probe whose entry has more hops than HOP_LIMIT, which removes it (R49). -/
theorem State.probe_overLimit (s : State) (h : Handle) (hc : s.config.cacheEn = true)
    (hex : ∃ e ∈ s.cache, e.origin = h)
    (hall : ∀ e ∈ s.cache, e.origin = h → s.config.hopLimit < e.hops) :
    s.probe h = ({ s with cache := cacheDropOrigin s.cache h }, none) := by
  rw [State.probe, if_neg (by simp [hc])]
  cases hf : cacheFind s.cache h with
  | none =>
    obtain ⟨e, he, ho⟩ := hex
    exact absurd ho ((cacheFind_none s.cache h).mp hf e he)
  | some e =>
    have hm := cacheFind_some _ _ _ hf
    dsimp only
    rw [if_pos (hall e hm.1 hm.2)]

/-- A probe that hits, and what the hit makes of the cache (R45, R47). -/
theorem State.probe_hits (s : State) (before : List CacheEntry) (e : CacheEntry)
    (after : List CacheEntry) (hen : s.config.cacheEn = true) (hc : s.cache = before ++ e :: after)
    (hu : ∀ f ∈ before ++ after, f.origin ≠ e.origin) (hl : e.hops ≤ s.config.hopLimit) :
    s.probe e.origin = (s, some e) ∧ cacheTouch s.cache e = e :: (before ++ after) := by
  have hb : ∀ f ∈ before, f.origin ≠ e.origin := fun f hf => hu f (List.mem_append_left _ hf)
  have ha : ∀ f ∈ after, f.origin ≠ e.origin := fun f hf => hu f (List.mem_append_right _ hf)
  have hf : cacheFind s.cache e.origin = some e := by
    have : before.find? (fun f => f.origin == e.origin) = none := by
      rw [List.find?_eq_none]
      intro f hf
      simpa using hb f hf
    rw [hc, cacheFind, List.find?_append, this]
    simp
  constructor
  · rw [State.probe, if_neg (by simp [hen]), hf]
    dsimp only
    rw [if_neg (Nat.not_lt_of_le hl)]
  · have h1 : before.filter (fun f => f.origin != e.origin) = before := by
      rw [List.filter_eq_self]
      intro f hf
      simpa using hb f hf
    have h2 : after.filter (fun f => f.origin != e.origin) = after := by
      rw [List.filter_eq_self]
      intro f hf
      simpa using ha f hf
    rw [hc, cacheTouch, cacheDropOrigin, List.filter_append]
    simp [h1, h2]

/-- Every read of a record by a walk is one read of the model, handed on (R63). -/
theorem exec_reads (i : Instr) (s : State) (k : Look) (s1 : State) (h : Reads i s k s1) :
    exec i s = .next (handOn k.walker s k.req (walkRead (parks k.walker) k.req k.snapshot k.limit
        k.reading k.current k.hops (s1.grant (walkerClient k.walker))))
      ∧ SameWalk s s1 k.walker
      ∧ s1 = { s with cache := s1.cache } := by
  cases h with
  | unprobed w r h s ho hs hc =>
    refine ⟨?_, SameWalk.of_opens s w r ho, rfl⟩
    have hp := State.probe_misses (s.grant (walkerClient w)) h hc
    rw [exec_walkFirst s w r ho]
    simp only [walkFirst, (handleForm_named_iff _ _).mpr hs, hp]
    rfl
  | overLimit w r h s ho hs hc hex hall =>
    refine ⟨?_, SameWalk.records s s w s.records _ (SameWalk.of_opens s w r ho), rfl⟩
    have hp := State.probe_overLimit (s.grant (walkerClient w)) h hc hex hall
    rw [exec_walkFirst s w r ho]
    simp only [walkFirst, (handleForm_named_iff _ _).mpr hs, hp]
    rfl
  | later w r p s ho =>
    refine ⟨?_, SameWalk.of_hops s w r p ho, rfl⟩
    rw [exec_walkHop s w r p ho]
    rfl

/-- An access that ends a walk (R77, R79, R81). -/
theorem handOn_ended (s t : State) (w : Walker) (r : WalkRequest) (result : WalkResult)
    (next : Option Shortcut) (h : SameWalk s t w) :
    handOn w s r (t.grant (walkerClient w), .ended result next) = walkEnds w t result next := by
  obtain ⟨h1, h2, h3⟩ := h
  cases w with
  | commandUnit =>
    obtain ⟨args, phase, hc⟩ := h3
    cases next <;> simp only [handOn, hc, commandHandOn, walkEnds, h1] <;> rfl
  | engine e =>
    obtain ⟨q, hq⟩ := h3
    cases next <;>
      simp only [handOn, hq, engineHandOn, walkEnds, h2, State.settleEngine, State.testDrain_eq,
        engineRests] <;> rfl

/-- An access that parks a request (R110). -/
theorem handOn_parked (s t : State) (e : EngineId) (r : WalkRequest) (n : Nat)
    (next : Option Shortcut) (h : SameWalk s t (.engine e)) :
    handOn (.engine e) s r (t.grant (walkerClient (.engine e)), .parked n next)
      = walkParks e t n next := by
  obtain ⟨h1, h2, q, hq⟩ := h
  cases next <;>
    simp only [handOn, hq, engineHandOn, walkParks, h2, State.settleEngine, State.testDrain_eq,
      engineRests] <;> rfl

/-- An access that takes a hop (R63 check 4). -/
theorem handOn_hop (s t : State) (w : Walker) (r : WalkRequest) (p : WalkProgress)
    (h : SameWalk s t w) :
    handOn w s r (t.grant (walkerClient w), .hop p) = walkGoesOn w t r p := by
  obtain ⟨h1, h2, h3⟩ := h
  cases w with
  | commandUnit =>
    obtain ⟨args, phase, hc⟩ := h3
    simp only [handOn, hc, commandHandOn, walkGoesOn, h1]
    rfl
  | engine e =>
    obtain ⟨q, hq⟩ := h3
    simp only [handOn, hq, engineHandOn, walkGoesOn, h2]
    rfl

/-- The shortcut a read calls for (R72). -/
theorem shortcutFor_eq (s t : State) (k : Look) (c : Client) (h : t.config = s.config) :
    shortcutFor k.req k.snapshot k.reading k.current k.hops (t.grant c) = shortcutOf s k := by
  unfold shortcutFor shortcutOf
  rw [State.grant_config, h]

/-- The fill a read makes (R50). -/
theorem fill_eq (t : State) (k : Look) (x : Extent) (c : Client) :
    (t.grant c).fill k.snapshot ⟨Handle.ofWord k.req.origin, k.current, k.hops, x⟩
      = { t with cache := filledCache t k x }.grant c := by
  unfold State.fill filledCache
  rw [State.grant_config, State.grant_epoch]
  split <;> rfl

/-- The end of a walk writes no record. -/
theorem walkEnds_records (w : Walker) (t : State) (x : WalkResult) (next : Option Shortcut) :
    (walkEnds w t x next).records = t.records := by
  have rests : ∀ (s : State) e n, (engineRests s e n).records = s.records := by
    intro s e n
    cases n with
    | none => simp only [engineRests, drainTested]; split <;> cases e <;> rfl
    | some c => cases e <;> rfl
  cases w with
  | commandUnit => simp only [walkEnds]; split <;> rfl
  | engine e =>
    simp only [walkEnds]
    split
    · exact rests _ _ _
    · rfl

end Sys2Proof.Machine
end

