-- ==== Sys2Proof/Tests/Slice0.lean ====
section
/-! SUPPORT. The tests: ill-formed events, the spec's tables and worked examples, one small step an event,
and for each statement a state and operands that meet its hypotheses. -/

namespace Sys2Proof.Tests

open Sys2Proof Sys2Proof.Machine Sys2Proof.Safety

/-! ### Small states -/

/-- The reset state with a short Free Slot Queue. -/
def small : State := { State.reset with freeQueue := [5, 6] }

/-- The state an event leads to. -/
def ran (i : Instr) (s : State) : State :=
  match exec i s with
  | .next t => t
  | .fault _ => s
  | .refused _ => s

/-- An object of 512 bytes: READ and WRITE, not shared, domain 1, class 9. -/
def object (pins : BitVec 8) : Object :=
  { ext := { base := 0x00800000#32, length := 512, rights := ⟨true, true⟩, shared := false
             domain := 1#4 }
    cls := 9#8, pins := pins }

/-- One argument word. -/
def arg (a0 : Word) : Quad Word := ⟨a0, 0#32, 0#32, 0#32⟩

/-- A write of COMMAND finds these argument words. -/
def asking (a : Quad Word) : State := { small with args := a }

/-- Slot FFFH holds a record, and the single access of a command is the one granted. -/
def facing (k : Cmd) (a : Quad Word) (r : Record) : State :=
  { (small.setRecord 4095 r) with cmd := some ⟨k, a, .single⟩ }

/-- The handle of slot FFFH at generation 255, as a word and as a handle. -/
def lastWord : Word := 0x000FFFFF#32

def lastHandle : Handle := ⟨4095, 255#8⟩

/-- A link request on port 0 with tag 2 for 16 bytes at offset 256, READ or WRITE as given. -/
def request (access : AccessKind) (kind : RequestKind) (origin : Word) : LinkRequest :=
  { port := 0, tag := 2#4
    req := { origin := origin, offset := 256, size := 16, access := access, kind := kind
             domain := 1#4 } }

/-- Walk Engine A waits for an access of its own, which is the one granted. -/
def engaged (e : Engine) (s : State) : State :=
  { s with engineA := e, gate := .opened, ports := s.ports.set 0 ⟨3, [2#4]⟩ }

/-- Entry 0 of the Move Table is COPYING for slot 90H, as in section 10.3.3. -/
def moving (remaining : Nat) : State :=
  { (small.setRecord 0x90 (.moving 1#8 { object 0#8 with ext := { (object 0#8).ext with length := 2048 } })) with
    moves := ⟨.copying 0x90 0x00900000#32 remaining, .idle, .idle, .idle⟩
    parkList := [⟨request .write .lookup 0x00009001#32, 0x90⟩]
    gate := .opened, ports := small.ports.set 0 ⟨3, [2#4]⟩ }

/-! ### Ill-formed events are refused -/

theorem test_unknownCommand_illFormed : (Instr.unknownCommand 0x01#32).wellFormed = false := by decide
theorem test_unknownCommand_wellFormed : (Instr.unknownCommand 0xFFFFFF06#32).wellFormed = true := by
  decide
theorem test_windowReset_illFormed : (Instr.windowReset 0xFFFFFFFE#32).wellFormed = false := by decide
theorem test_registerWrite_command_illFormed :
    (Instr.registerWrite .command 0#32).wellFormed = false := by decide
theorem test_registerWrite_events_illFormed :
    (Instr.registerWrite .events 0#32).wellFormed = false
      ∧ (Instr.registerWrite .eventEnable 0#32).wellFormed = false := by decide
theorem test_registerWrite_windowReset_illFormed :
    (Instr.registerWrite .sweepSkipped 1#32).wellFormed = false
      ∧ (Instr.registerWrite .sweepSkipped 2#32).wellFormed = true := by decide

/-! ### Tables of the spec -/

/-- Table 1-5. -/
theorem test_handleForm_table :
    handleForm 0x00000101#32 = .named ⟨0x1, 1#8⟩ ∧ handleForm 0x0002A703#32 = .named ⟨0x2A7, 3#8⟩
      ∧ handleForm 0x000FFFFF#32 = .named ⟨0xFFF, 255#8⟩ ∧ handleForm 0x00000007#32 = .null
      ∧ handleForm 0x00000000#32 = .null ∧ handleForm 0x00000500#32 = .malformed
      ∧ handleForm 0x00100101#32 = .malformed := by decide

/-- The word of `7:255` is 000007FFH (section 10.8). -/
theorem test_handle_word :
    (Handle.mk 7 255#8).word = 0x000007FF#32 ∧ (Handle.mk 0xA3 1#8).word = 0x0000A301#32 := by decide

/-- Table 9-4: every code names its command, and 00H, 06H, 32H name none. -/
theorem test_commandOfCode_table :
    allCmds.all (fun k => commandOfCode k.code == some k) = true ∧ commandOfCode 0x06#8 = none
      ∧ commandOfCode 0x00#8 = none ∧ commandOfCode 0x32#8 = none := by decide

/-- Table 4-2: a few outcome codes. -/
theorem test_outcomeCode_table :
    OutcomeCode.stale.code = 0x11#8 ∧ OutcomeCode.unpinUnderflow.code = 0x1B#8
      ∧ OutcomeCode.moveTableFull.code = 0x34#8 ∧ OutcomeCode.notRunning.code = 0x3C#8 := by decide

/-- Table 10-6: the words that retire class 9 everywhere. -/
theorem test_selection_table :
    selectionOf ⟨0x0FFF0001#32, 0x0000010E#32, 0x00000009#32, 0x000000FF#32⟩ .retire =
      { startSlot := 1, endSlot := 4095, states := 0b01110#5, action := .retire, newClass := 0#8
        pattern := ⟨9#8, 0#4, false⟩, care := ⟨255#8, 0#4, false⟩ } := by decide

/-- Table 8-1: word 0 of a response. -/
theorem test_response_word0 :
    Response.word0 ⟨2, 0xA#4, ⟨.resolvedFwd, 0#32, 0#32, 3, true⟩⟩ = 0x001302A2#32 := by decide

/-- Tables 9-1 and 9-4: what a write at a byte offset is, and what a read there gives. -/
theorem test_windowWrite :
    windowWrite (selectOf 0x00) 0xFFFFFF11#32 = .forward
      ∧ windowWrite (selectOf 0x00) 0x00000100#32 = .unknownCommand 0x00000100#32
      ∧ windowWrite (selectOf 0x10) 7#32 = .registerWrite .arg3 7#32
      ∧ windowWrite (selectOf 0x38) 3#32 = .windowReset 3#32
      ∧ windowWrite (selectOf 0x38) 2#32 = .registerWrite .sweepSkipped 2#32
      ∧ { small with epoch := 0xFFFF#16 }.readAt (selectOf 0x3C) = some 0x0000FFFF#32 := by decide

/-! ### Reset -/

theorem test_reset_words :
    State.reset.readWord .status = some 0#32 ∧ State.reset.readWord .events = some 0#32
      ∧ small.readWord .counts = some 2#32 ∧ State.reset.linkReady = true := by decide

theorem test_windowReset :
    (ran (.windowReset 1#32) { small with events := 0b111111#6, eventEnable := 5#6 }).readWord .status
        = some 2#32
      ∧ (ran (.windowReset 1#32) { small with eventEnable := 5#6 }).eventEnable = 5#6
      ∧ (ran .windowResetComplete { small with phase := .resetting }).phase = .running := by decide

theorem test_resetInput :
    (ran .resetAssert small).linkReady = false ∧ (ran .resetAssert small).readWord .status = none
      ∧ (ran .resetRelease { small with phase := .held }).phase = .running := by decide

/-! ### Submissions -/

theorem test_create_badArgument :
    (ran .create (asking ⟨0x00800008#32, 512#32, 0#32, 0#32⟩)).lastOutcome = .badArgument
      ∧ (ran .create (asking ⟨0x00800000#32, 512#32, 0x00090103#32, 0#32⟩)).busy = true := by decide

theorem test_handleSubmissions :
    (ran .retire (asking (arg 0x00000500#32))).lastOutcome = .badArgument
      ∧ (ran .pin (asking (arg 0x00000007#32))).lastOutcome = .nullHandle
      ∧ (ran .unpin (asking (arg lastWord))).busy = true
      ∧ (ran .moveCommit (asking (arg 0#32))).lastOutcome = .nullHandle
      ∧ (ran .moveAbort (asking (arg lastWord))).busy = true := by decide

theorem test_alter_noFlag :
    (ran .alter (asking ⟨lastWord, 0x0FFFFFFF#32, 0#32, 0#32⟩)).lastOutcome = .badArgument
      ∧ (ran .clearDirectory small).busy = true := by decide

theorem test_resize_length :
    (ran .resize (asking ⟨lastWord, 24#32, 0#32, 0#32⟩)).lastOutcome = .badArgument
      ∧ (ran .resize (asking ⟨lastWord, 16777216#32, 0#32, 0#32⟩)).busy = true := by decide

theorem test_readRecord_slot :
    (ran .readRecord (asking (arg 4096#32))).lastOutcome = .badArgument
      ∧ (ran .readRecord (asking (arg 4095#32))).busy = true := by decide

theorem test_lookup_size :
    (ran .lookup (asking ⟨lastWord, 0#32, 257#32, 0#32⟩)).lastOutcome = .malformed
      ∧ (ran .lookup (asking ⟨lastWord, 0#32, 256#32, 0#32⟩)).busy = true := by decide

theorem test_forward_cycle :
    (ran .forward (asking ⟨0x00000101#32, 0x00000102#32, 0#32, 0#32⟩)).lastOutcome = .cycle
      ∧ (ran .forward (asking ⟨0x00000101#32, 0x00000102#32, 0#32, 0#32⟩)).results
          = ⟨0x00000102#32, 1#32, 0#32⟩ := by decide

theorem test_moveBegin_base :
    (ran .moveBegin (asking ⟨lastWord, 0x00900004#32, 0#32, 0#32⟩)).lastOutcome = .badArgument := by decide

theorem test_sweepStart_range :
    (ran .sweepStart (asking ⟨0x0FFF0001#32, 0x0000010E#32, 9#32, 0xFF#32⟩)).results.res0 = 4095#32
      ∧ (ran .sweepStart (asking ⟨0x00010002#32, 0#32, 0#32, 0#32⟩)).lastOutcome = .badArgument := by
  decide

theorem test_sweepStop_idle : (ran .sweepStop small).lastOutcome = .notRunning := by decide

theorem test_linkGate :
    (ran .linkOpen small).gate = .opened
      ∧ (ran .linkClose { small with gate := .opened }).gate = .closed
      ∧ (ran .linkClose { small with gate := .opened }).events = 0b010001#6
      ∧ (ran .linkClose (engaged .idle small)).gate = .draining := by decide

theorem test_setPortDomain :
    (ran .setPortDomain (asking ⟨3#32, 15#32, 0#32, 0#32⟩)).portDomains.get 3 = 15#4
      ∧ (ran .setPortDomain (asking ⟨3#32, 15#32, 0#32, 0#32⟩)).results.res0 = 4#32
      ∧ (ran .setPortDomain (asking ⟨4#32, 1#32, 0#32, 0#32⟩)).lastOutcome = .badArgument := by decide

/-- Table 10-3, step 1. -/
theorem test_setConfig :
    (ran .setConfig (asking ⟨4#32, 3#32, 0#32, 0#32⟩)).config.moveWindow = 3
      ∧ (ran .setConfig (asking ⟨4#32, 3#32, 0#32, 0#32⟩)).results.res0 = 1000#32
      ∧ (ran .readConfig (asking ⟨6#32, 0#32, 0#32, 0#32⟩)).lastOutcome = .badArgument := by decide

theorem test_unknownCommand :
    (ran (.unknownCommand 0xABCDEF06#32) small).lastOutcome = .unknownCommand
      ∧ (ran (.unknownCommand 0xABCDEF06#32) small).lastCommand = 0x06#8 := by decide

theorem test_collide :
    (ran .create { small with cmd := some ⟨.pin, arg 0#32, .single⟩ }).events = 0b100000#6 := by decide

/-! ### Accesses -/

/-- Section 10.8, steps 1 and 7: the head slot's handle, and the queue length left. -/
theorem test_createAccess :
    (ran .createAccess { small with
        freeQueue := [7, 9], records := [(7, .free 255#8)]
        cmd := some ⟨.create, ⟨0x00800000#32, 512#32, 0x00090103#32, 0#32⟩, .single⟩ }).results
      = ⟨0x000007FF#32, 1#32, 0#32⟩ := by decide

/-- FREE_LOW as the queue's length falls below the mark (R22). -/
theorem test_createAccess_freeLow :
    (ran .createAccess { small with
        config := { powerOnConfig with freeLowMark := 2 }
        cmd := some ⟨.create, ⟨0x00800000#32, 512#32, 0x00090103#32, 0#32⟩, .single⟩ }).events
      = 0b001001#6 := by decide

/-- Section 10.8, step 4: generation 255 retires to WORN. -/
theorem test_retireAccess :
    (ran .retireAccess (facing .retire (arg lastWord) (.live 255#8 (object 0#8)))).results
        = ⟨255#32, 2#32, 1#32⟩
      ∧ (ran .retireAccess (facing .retire (arg 0x000FFF01#32) (.live 1#8 (object 0#8)))).freeQueue
        = [5, 6, 4095] := by decide

theorem test_pinAccess :
    (ran .pinAccess (facing .pin (arg lastWord) (.live 255#8 (object 255#8)))).lastOutcome = .pinLimit
      ∧ (ran .pinAccess (facing .pin (arg lastWord) (.live 255#8 (object 254#8)))).results.res0
        = 255#32 := by decide

theorem test_unpinAccess :
    (ran .unpinAccess (facing .unpin (arg lastWord) (.live 255#8 (object 0#8)))).lastOutcome
        = .unpinUnderflow
      ∧ (ran .unpinAccess (facing .unpin (arg lastWord) (.live 255#8 (object 1#8)))).results.res0
        = 0#32 := by decide

/-- R174: a clear while the link drains is BUSY with 1. -/
theorem test_clearAccess :
    (ran .clearAccess { facing .clearDirectory (arg 0#32) .worn with gate := .draining }).results.res0
        = 1#32
      ∧ (ran .clearAccess { facing .clearDirectory (arg 0#32) .worn with wornCount := 4 }).results
        = ⟨4#32, 2#32, 0#32⟩ := by decide

theorem test_alterAccess :
    (ran .alterAccess (facing .alter ⟨lastWord, 0x80FF0000#32, 0#32, 0#32⟩
      (.live 255#8 (object 3#8)))).record 4095 = .live 255#8 { object 3#8 with cls := 255#8 } := by decide

theorem test_resizeAccess :
    (ran .resizeAccess (facing .resize ⟨lastWord, 16#32, 0#32, 0#32⟩
      (.live 255#8 (object 3#8)))).results.res0 = 512#32 := by decide

/-- Section 10.8, step 9, and a forwarder's RES0. -/
theorem test_readRecordAccess :
    (ran .readRecordAccess (facing .readRecord (arg 4095#32) .worn)).results
        = ⟨0x0000FF04#32, 0#32, 0#32⟩
      ∧ (ran .readRecordAccess (facing .readRecord (arg 4095#32)
          (.forwarded 1#8 7#8 ⟨0xA1, 1#8⟩))).results = ⟨0x00070163#32, 0x0000A101#32, 0#32⟩ := by decide

/-- Section 10.7, grant 1: a miss at a forwarder takes a hop. -/
theorem test_walkFirstAccess :
    (ran (.walkFirstAccess (.engine .a)) (engaged (.opening (request .read .lookup 0x0000A001#32))
        (small.setRecord 0xA0 (.forwarded 1#8 2#8 ⟨0xA1, 1#8⟩)))).engineA
      = .walking (request .read .lookup 0x0000A001#32)
          ⟨0#16, 8, ⟨1#8, ⟨0xA1, 1#8⟩⟩, ⟨0xA1, 1#8⟩, 1⟩ := by decide

/-- Section 10.8, step 6: a worn origin. -/
theorem test_walkFirstAccess_worn :
    (ran (.walkFirstAccess (.engine .a)) (engaged (.opening (request .read .lookup 0x000007FF#32))
        (small.setRecord 7 .worn))).responses
      = [⟨0, 2#4, ⟨.worn, 0#32, 0#32, 0, false⟩⟩] := by decide

/-- Section 10.7, grant 5: the final access at two hops, with a fill and a shortcut. -/
theorem test_walkHopAccess :
    let p : WalkProgress := ⟨40#16, 8, ⟨1#8, ⟨0xA1, 1#8⟩⟩, ⟨0xA2, 1#8⟩, 2⟩
    let s := engaged (.walking (request .read .lookup 0x0000A001#32) p)
      { (small.setRecord 0xA2 (.live 1#8 (object 0#8))) with
        epoch := 40#16, config := { powerOnConfig with shortcutEn := true } }
    (ran (.walkHopAccess (.engine .a)) s).responses
        = [⟨0, 2#4, ⟨.resolvedFwd, 0x00800100#32, 0x0000A201#32, 2, false⟩⟩]
      ∧ (ran (.walkHopAccess (.engine .a)) s).engineA
        = .shortcut ⟨0xA0, ⟨1#8, ⟨0xA1, 1#8⟩⟩, ⟨0xA2, 1#8⟩, 40#16⟩ := by decide

/-- Section 10.7, grant 7: the epoch has moved on, and the shortcut changes nothing. -/
theorem test_shortcutAccess :
    (ran (.shortcutAccess (.engine .a))
        (engaged (.shortcut ⟨0xA0, ⟨1#8, ⟨0xA1, 1#8⟩⟩, ⟨0xA2, 1#8⟩, 40#16⟩)
          { (small.setRecord 0xA0 (.forwarded 1#8 2#8 ⟨0xA1, 1#8⟩)) with epoch := 41#16 })).record 0xA0
      = .forwarded 1#8 2#8 ⟨0xA1, 1#8⟩ := by decide

theorem test_shortcutAccess_rewrites :
    (ran (.shortcutAccess (.engine .a))
        (engaged (.shortcut ⟨0xA0, ⟨1#8, ⟨0xA1, 1#8⟩⟩, ⟨0xA2, 1#8⟩, 40#16⟩)
          { (small.setRecord 0xA0 (.forwarded 1#8 2#8 ⟨0xA1, 1#8⟩)) with epoch := 40#16 })).record 0xA0
      = .forwarded 1#8 2#8 ⟨0xA2, 1#8⟩ := by decide

/-- FORWARD waits for one of its accesses. -/
def forwarding (phase : CmdPhase) (s : State) : State :=
  { s with cmd := some ⟨.forward, ⟨0x00000802#32, 0x000007FF#32, 0#32, 0#32⟩, phase⟩ }

theorem test_fromAccess :
    (ran .fromAccess (forwarding (.fromCheck ⟨8, 2#8⟩ ⟨7, 255#8⟩)
        (small.setRecord 8 (.live 2#8 (object 0#8))))).cmd
      = some ⟨.forward, ⟨0x00000802#32, 0x000007FF#32, 0#32, 0#32⟩,
          .checkWalk ⟨8, 2#8⟩ ⟨7, 255#8⟩ 0#16 ⟨7, 255#8⟩ 1⟩ := by decide

/-- Section 10.8, step 8: WORN in the chain at k = 1. -/
theorem test_checkWalkAccess :
    (ran .checkWalkAccess (forwarding (.checkWalk ⟨9, 1#8⟩ ⟨7, 255#8⟩ 51#16 ⟨7, 255#8⟩ 1)
        (small.setRecord 7 .worn))).results = ⟨0x000007FF#32, 1#32, 0#32⟩ := by decide

/-- Section 10.8, step 2: the epoch after the final access is in RES2. -/
theorem test_forwardFinalAccess :
    let s := forwarding (.final ⟨8, 2#8⟩ ⟨7, 255#8⟩ 50#16 ⟨7, 255#8⟩ 1)
      { (small.setRecord 8 (.live 2#8 (object 0#8))) with epoch := 50#16 }
    (ran .forwardFinalAccess s).results = ⟨0x000007FF#32, 1#32, 51#32⟩
      ∧ (ran .forwardFinalAccess s).record 8 = .forwarded 2#8 9#8 ⟨7, 255#8⟩ := by decide

/-- Table 10-3, step 2. -/
theorem test_moveBeginAccess :
    let s : State :=
      { (small.setRecord 0x90 (.live 1#8
          { object 0#8 with ext := { (object 0#8).ext with length := 2048 } })) with
        config := { powerOnConfig with moveWindow := 3 }
        cmd := some ⟨.moveBegin, ⟨0x00009001#32, 0x00900000#32, 0#32, 0#32⟩, .single⟩ }
    (ran .moveBeginAccess s).results = ⟨0x00800000#32, 2048#32, 3#32⟩
      ∧ (ran .moveBeginAccess s).moves.get 0 = .copying 0x90 0x00900000#32 3 := by decide

/-- Table 10-5, step 6B. -/
theorem test_moveCommitAccess :
    let s := { moving 0 with cmd := some ⟨.moveCommit, arg 0x00009001#32, .single⟩ }
    (ran .moveCommitAccess s).results = ⟨0x00900000#32, 1#32, 0#32⟩
      ∧ (ran .moveCommitAccess s).releaseQueue = [request .write .lookup 0x00009001#32] := by decide

/-- Table 10-4, step 7A, by MOVE_ABORT, and the abort of an open move. -/
theorem test_moveAbortAccess :
    (ran .moveAbortAccess { small with
        moves := small.moves.set 2 (.lapsed 0x90)
        cmd := some ⟨.moveAbort, arg 0x000090FF#32, .single⟩ }).lastOutcome = .lapsed
      ∧ (ran .moveAbortAccess { moving 7 with
        cmd := some ⟨.moveAbort, arg 0x00009001#32, .single⟩ }).results
        = ⟨0x00800000#32, 1#32, 7#32⟩ := by decide

theorem test_cacheEnAccess :
    (ran .cacheEnAccess { small with
        cache := [⟨⟨8, 2#8⟩, ⟨7, 255#8⟩, 1, (object 0#8).ext⟩]
        cmd := some ⟨.setConfig, ⟨2#32, 0#32, 0#32, 0#32⟩, .single⟩ }).cache = [] := by decide

theorem test_linkUnpinAccess :
    (ran (.linkUnpinAccess .a) (engaged (.unpinning (request .read .unpin 0x00000701#32))
        (small.setRecord 7 (.live 1#8 (object 1#8))))).record 7 = .live 1#8 (object 0#8) := by decide

/-- A RETIRE sweep's last visit. -/
def sweeping (states : BitVec 5) (action : SweepAction) (r : Record) : State :=
  { (small.setRecord 4095 r) with
    sweep :=
      { state := .running
        sel := { clearedSelection with
                 startSlot := 1, endSlot := 4095, states := states, action := action
                 newClass := 3#8 }
        cursor := 4095, matched := 2, acted := 1, skipped := 1, endKind := .none } }

theorem test_sweepVisit :
    (ran .sweepVisit (sweeping 0b00010#5 .retire (.live 255#8 (object 0#8)))).record 4095 = .worn
      ∧ (ran .sweepVisit (sweeping 0b00010#5 .retire (.live 255#8 (object 0#8)))).sweep.endKind = .done := by
  decide

theorem test_sweepVisit_skips :
    (ran .sweepVisit (sweeping 0b00010#5 .retire (.live 255#8 (object 1#8)))).sweep.skipped = 2
      ∧ (ran .sweepVisit (sweeping 0b00010#5 .retire (.live 255#8 (object 1#8)))).readWord .sweepCursor
        = some 4096#32 := by decide

/-- Table 10-4, step 6A, and Table 10-5, step 8B. -/
theorem test_expiryAccess :
    (ran .expiryAccess { moving 0 with pendingExpiries := [0] }).moves.get 0 = .lapsed 0x90
      ∧ (ran .expiryAccess { moving 0 with pendingExpiries := [1] }).moves.get 1 = .idle := by decide

/-- Table 10-3, step 4: the Move Timer asks from the tick on, whether EXPIRY has come or not. -/
theorem test_expiryAccess_noted :
    (ran .expiryAccess (ran .tick { moving 1 with gate := .closed })).moves.get 0 = .lapsed 0x90 := by decide

/-! ### The link, the Move Timer and the window -/

theorem test_linkRequest :
    (ran (.linkRequest 0 0x00100120#32 0x00009001#32 256#32) { small with gate := .opened }).lookupQueue
        = [request .write .lookup 0x00009001#32]
      ∧ (ran (.linkRequest 0 0#32 0#32 0#32) small).acks.get 0 = some .closed := by decide

theorem test_responseAccept :
    (ran .responseAccept { engaged .idle small with
        gate := .draining
        responses := [⟨0, 2#4, ⟨.worn, 0#32, 0#32, 0, false⟩⟩] }).ports.get 0 = ⟨4, []⟩
      ∧ (ran .responseAccept { engaged .idle small with
        gate := .draining
        responses := [⟨0, 2#4, ⟨.worn, 0#32, 0#32, 0, false⟩⟩] }).gate = .closed := by decide

theorem test_walkTake :
    (ran .walkTake { small with lookupQueue := [request .read .lookup 0x00000500#32] }).responses
        = [⟨0, 2#4, ⟨.malformed, 0#32, 0#32, 0, false⟩⟩]
      ∧ (ran .walkTake { small with lookupQueue := [request .read .lookup lastWord] }).engineA
        = .opening (request .read .lookup lastWord) := by decide

theorem test_tick :
    (ran .tick (moving 1)).moves.get 0 = .copying 0x90 0x00900000#32 0
      ∧ (ran .tick (moving 1)).expired = [0]
      ∧ (ran .tick { moving 1 with pendingExpiries := [0] }).expired = []
      ∧ (ran .tick (moving 1)).waiting .moveTimer = true := by decide

theorem test_expiry :
    (ran .expiry { moving 0 with expired := [0] }).pendingExpiries = [0] := by decide

theorem test_eventsWrite :
    (ran (.eventsWrite 0xFFFFFF05#32) { small with events := 0b111111#6 }).events = 0b111010#6
      ∧ (ran (.eventEnableWrite 0xFFFFFFC1#32) small).eventEnable = 1#6 := by decide

theorem test_registerWrite :
    (ran (.registerWrite .arg2 0xFFFFFFFF#32) small).args.at2 = 0xFFFFFFFF#32
      ∧ ran (.registerWrite .epoch 7#32) small = small := by decide

/-- No row of the table gives bits, so no word spells a command. -/
theorem test_withFetchWord : small.withFetchWord 8 1 = small ∧ decodeTableWord 8 1 = none := by decide

theorem test_core : Sys2Proof.core.reset = State.reset := rfl

/-- An empty queue counts one core-clock cycle, and the hundredth delivers a tick (log 4). -/
theorem test_step_idle :
    (match step { small with cycles := 98 } with | .next t => t.cycles | _ => 0) = 99
      ∧ (match step { small with cycles := 99 } with | .next t => t.cycles | _ => 7) = 0 := by decide

/-! ### Witnesses: for each statement, what its hypotheses ask for, clause by clause -/

/-- The argument words with the handle FFFH:255 in ARG0. -/
def lastArgs (a1 : Word) : Quad Word := ⟨lastWord, a1, 0#32, 0#32⟩

/-- The single access of a command that names slot FFFH at generation 255 is granted and finds a given
record. -/
abbrev FacesLast (k : Cmd) (a1 : Word) (r : Record) : Prop :=
  ServesHandle (facing k (lastArgs a1) r) k (lastArgs a1) lastHandle
    ∧ (facing k (lastArgs a1) r).record lastHandle.slot = r

theorem facesLast (k : Cmd) (a1 : Word) (r : Record) : FacesLast k a1 r :=
  ⟨⟨⟨rfl, rfl⟩, show lastHandle = _ from (by decide : lastHandle = ⟨(lastWord.extractLsb' 8 12).toNat, lastWord.extractLsb' 0 8⟩)⟩,
    recordIn_putRecord_same _ _ _⟩

/-- The records a command on FFFH:255 can find, one for each refusal: worn, another generation, MOVING,
FORWARDED. -/
theorem facesLast_refusals (k : Cmd) (a1 : Word) :
    FacesLast k a1 .worn
      ∧ (FacesLast k a1 (.free 255#8) ∧ Stale lastHandle (.free 255#8))
      ∧ (FacesLast k a1 (.live 254#8 (object 0#8)) ∧ Stale lastHandle (.live 254#8 (object 0#8)))
      ∧ FacesLast k a1 (.moving lastHandle.gen (object 0#8))
      ∧ FacesLast k a1 (.forwarded lastHandle.gen 7#8 ⟨1, 1#8⟩) :=
  ⟨facesLast .., ⟨facesLast .., by decide⟩, ⟨facesLast .., by decide⟩, facesLast .., facesLast ..⟩

theorem witness_EmptyQueueCountsAClockCycle :
    (small.pending = [] ∧ { small with phase := .held }.phase ≠ .running)
      ∧ { small with cycles := 98 }.cycles + 1 < small.interval
      ∧ small.interval ≤ { small with cycles := 99 }.cycles + 1 ∧ small.phase = .running := by decide

theorem witness_ResetInputStopsAndResetsThePart : { small with phase := .held }.phase = .held := rfl

theorem witness_WindowResetKeepsTheSettings :
    small.phase = .running ∧ (0x00000001#32).getLsbD 0 = true ∧ (0xFFFFFFFE#32).getLsbD 0 = false
      ∧ { small with phase := .resetting }.phase = .resetting := by decide

theorem witness_NothingActsDuringAReset :
    { small with phase := .held }.phase ≠ .running ∧ { small with phase := .resetting }.phase ≠ .running
      ∧ actsDuringReset .tick = false ∧ actsDuringReset (.windowReset 1#32) = false := by decide

theorem witness_UngrantedAccessChangesNothing :
    accessClient .sweepVisit = some .sweepUnit ∧ small.granted ≠ some .sweepUnit := by decide

/-- The Command Unit was granted last and waits again, and the Move Timer waits: four grants away. -/
def contested : State :=
  { small with lastGranted := .commandUnit, cmd := some ⟨.pin, arg lastWord, .single⟩
               pendingExpiries := [0] }

theorem witness_GrantsFollowTheRotation :
    contested.phase = .running ∧ contested.waiting .commandUnit = true
      ∧ contested.granted = some .moveTimer ∧ Client.moveTimer ≠ .commandUnit
      ∧ turns contested.lastGranted .commandUnit = 4
      ∧ contested.waiting .engineB = false ∧ contested.waiting .sweepUnit = false := by decide

theorem witness_CommandWriteWhileBusyCollides :
    (Instr.create, Cmd.create) ∈ submissions ∧ (Instr.readConfig, Cmd.readConfig) ∈ submissions
      ∧ contested.phase = .running ∧ contested.cmd ≠ none
      ∧ { small with phase := .resetting }.phase = .resetting := by decide

theorem witness_UnknownCodeCompletesAtOnce :
    Accepting small
      ∧ ∀ c ∈ [0x00#8, 0x06#8, 0x32#8, 0xFF#8], c = (0xFFFFFF00#32 ||| c.setWidth 32).extractLsb' 0 8 ∧ c ∉
        [0x01#8, 0x02#8, 0x03#8, 0x04#8, 0x05#8, 0x08#8, 0x09#8, 0x0A#8, 0x10#8, 0x11#8, 0x18#8, 0x19#8,
          0x1A#8, 0x20#8, 0x21#8, 0x28#8, 0x29#8, 0x2A#8, 0x30#8, 0x31#8] :=
  ⟨by decide, by simp⟩

theorem witness_RegisterWritesReachTheArgumentWordsAlone :
    small.phase = .running ∧ (0xFFFFFFFE#32).getLsbD 0 = false ∧ (0x00000001#32).getLsbD 0 = true
      ∧ (0x31#8, Instr.readConfig) ∈ commandTable ∧ (0xFFFFFF31#32 : Word).extractLsb' 0 8 = 0x31#8
      ∧ (∀ p ∈ commandTable, (0xFFFFFF32#32 : Word).extractLsb' 0 8 ≠ p.1)
      ∧ (0x3C, WindowWord.epoch) ∈ windowLayout ∧ 0x3C ∉ [0x00, 0x24, 0x28, 0x38] := by decide

theorem witness_EventFlagsEnablesAndTheInterrupt :
    small.phase = .running ∧ small.irqActive = false
      ∧ { small with events := 0b100000#6, eventEnable := 0b100000#6 }.irqActive = true := by decide

theorem witness_StatusWordsShowTheState :
    State.reset.phase ≠ .held ∧ State.reset.freeQueue.length = 4095
      ∧ { small with wornCount := 4095 }.wornCount ≤ 4095
      ∧ { small.sweep with matched := 4095, acted := 4095 }.matched ≤ 4095
      ∧ { small.sweep with cursor := 4096 }.cursor ≤ 4096
      ∧ { small.sweep with skipped := 4095 }.skipped ≤ 4095
      ∧ (0x3C, WindowWord.epoch) ∈ windowLayout
      ∧ (Response.mk 3 15#4 (refusal .chainLimit 15 false)).result.hops ≤ 15
      ∧ State.reset.phase = .running :=
  ⟨by decide, by simp [State.reset, allSlots], by decide, by decide, by decide, by decide, by decide,
    by decide, by decide⟩

theorem witness_HandleFormsAreTestedAtAcceptance :
    (Accepting (asking (arg 0x00000500#32)) ∧ Malformed 0x00000500#32 ∧ Malformed 0x00100101#32)
      ∧ (Null 0#32 ∧ Null 0x000000FF#32)
      ∧ (¬ Malformed 0x00000101#32 ∧ ¬ Null 0x00000101#32)
      ∧ (Instr.retire, Cmd.retire) ∈ namingSubmissions
      ∧ (Instr.retire, Cmd.retire) ∈ handleSubmissions := by decide

theorem witness_CreateTakesTheHeadSlot :
    (Accepting (asking ⟨0xFFFFFFF0#32, 16#32, 0x00FF0F07#32, 0#32⟩)
        ∧ CreateArgumentsPass ⟨0xFFFFFFF0#32, 16#32, 0x00FF0F07#32, 0#32⟩
        ∧ CreateArgumentsPass ⟨0#32, 16777216#32, 0#32, 0#32⟩)
      ∧ (¬ CreateArgumentsPass ⟨0xFFFFFFF0#32, 32#32, 0#32, 0#32⟩
        ∧ ¬ CreateArgumentsPass ⟨0#32, 16#32, 0x00001000#32, 0#32⟩
        ∧ ¬ CreateArgumentsPass ⟨0#32, 16#32, 0x01000000#32, 0#32⟩)
      ∧ ServesSingle (facing .create (lastArgs 16#32) .worn) .create (lastArgs 16#32)
      ∧ (ServesSingle { facing .create (lastArgs 16#32) .worn with freeQueue := [] } .create
          (lastArgs 16#32))
      ∧ (facing .create (lastArgs 16#32) .worn).freeQueue = 5 :: [6] := by decide

theorem witness_RetireEndsTheUseOfASlot :
    FacesLast .retire 0#32 (.live lastHandle.gen (object 255#8)) ∧ (object 255#8).pins ≠ 0#8
      ∧ FacesLast .retire 0#32 (.live lastHandle.gen (object 0#8)) ∧ (object 0#8).pins = 0#8
      ∧ FacesLast .retire 0#32 .worn
      ∧ FacesLast .retire 0#32 (.free 255#8) ∧ Stale lastHandle (.free 255#8)
      ∧ FacesLast .retire 0#32 (.moving lastHandle.gen (object 0#8))
      ∧ FacesLast .retire 0#32 (.forwarded lastHandle.gen 7#8 ⟨1, 1#8⟩) :=
  ⟨facesLast .., by decide, facesLast .., by decide, facesLast .., facesLast .., by decide,
    facesLast .., facesLast ..⟩

theorem witness_PinAndUnpinCountHolds :
    ∀ k ∈ [Cmd.pin, Cmd.unpin],
      FacesLast k 0#32 (.live lastHandle.gen (object 255#8)) ∧ (object 255#8).pins = 255#8
      ∧ FacesLast k 0#32 (.live lastHandle.gen (object 254#8)) ∧ (object 254#8).pins ≠ 255#8
      ∧ FacesLast k 0#32 (.live lastHandle.gen (object 0#8)) ∧ (object 0#8).pins = 0#8
      ∧ FacesLast k 0#32 (.live lastHandle.gen (object 1#8)) ∧ (object 1#8).pins ≠ 0#8
      ∧ FacesLast k 0#32 .worn ∧ FacesLast k 0#32 (.free 255#8) ∧ Stale lastHandle (.free 255#8)
      ∧ FacesLast k 0#32 (.moving lastHandle.gen (object 0#8))
      ∧ FacesLast k 0#32 (.forwarded lastHandle.gen 7#8 ⟨1, 1#8⟩) :=
  fun _ _ => ⟨facesLast .., by decide, facesLast .., by decide, facesLast .., by decide, facesLast ..,
    by decide, facesLast .., facesLast .., by decide, facesLast .., facesLast ..⟩

/-- A sweep runs, the link drains, and the last Move Table entry is LAPSED. -/
def sweepingOpen : State :=
  { sweeping 0b10#5 .count .worn with
    gate := .draining, moves := small.moves.set 3 (.lapsed 4095), lastGranted := .moveTimer }

theorem witness_ClearGivesTheDirectoryItsResetContents :
    Accepting small
      ∧ ServesSingle (facing .clearDirectory (arg 0#32) .worn) .clearDirectory (arg 0#32)
      ∧ blockers (facing .clearDirectory (arg 0#32) .worn) = 0
      ∧ ServesSingle { sweepingOpen with cmd := some ⟨.clearDirectory, arg 0#32, .single⟩ } .clearDirectory
          (arg 0#32)
      ∧ blockers { sweepingOpen with cmd := some ⟨.clearDirectory, arg 0#32, .single⟩ } = 7 := by decide

theorem witness_AlterReplacesTheSelectedFields :
    (Accepting (asking (lastArgs 0xF0FF0F07#32)) ∧ ¬ Malformed lastWord ∧ ¬ Null lastWord
        ∧ AlterWordPasses 0xF0FF0F07#32 ∧ AlterWordPasses 0x10001F00#32)
      ∧ (¬ AlterWordPasses 0x0FFFFFFF#32 ∧ ¬ AlterWordPasses 0x40001000#32
        ∧ ¬ AlterWordPasses 0x81000000#32)
      ∧ FacesLast .alter 0xF0FF0F07#32 (.live lastHandle.gen (object 0#8))
      ∧ FacesLast .alter 0x80FF0000#32 (.moving lastHandle.gen (object 0#8))
      ∧ FacesLast .alter 0x80FF0000#32 .worn
      ∧ FacesLast .alter 0x80FF0000#32 (.live 254#8 (object 0#8))
      ∧ Stale lastHandle (.live 254#8 (object 0#8))
      ∧ FacesLast .alter 0x80FF0000#32 (.forwarded lastHandle.gen 7#8 ⟨1, 1#8⟩) :=
  ⟨by decide, by decide, facesLast .., facesLast .., facesLast .., facesLast .., by decide,
    facesLast ..⟩

/-- An object of 16 bytes at the end of the address space. -/
def topObject : Object :=
  { object 0#8 with ext := { (object 0#8).ext with base := 0xFFFFFFF0#32, length := 16 } }

theorem witness_ResizeGivesANewLength :
    (Accepting (asking (lastArgs 16#32)) ∧ ¬ Malformed lastWord ∧ ¬ Null lastWord)
      ∧ (∀ n ∈ [16, 16777216], n % 16 = 0 ∧ 16 ≤ n ∧ n ≤ 16777216)
      ∧ (∀ n ∈ [0, 24, 16777232], ¬ (n % 16 = 0 ∧ 16 ≤ n ∧ n ≤ 16777216))
      ∧ (FacesLast .resize 32#32 (.live lastHandle.gen topObject)
        ∧ 4294967296 < topObject.ext.base.toNat + (lastArgs 32#32).at1.toNat)
      ∧ (FacesLast .resize 16#32 (.live lastHandle.gen topObject)
        ∧ topObject.ext.base.toNat + (lastArgs 16#32).at1.toNat = 4294967296)
      ∧ FacesLast .resize 16#32 .worn
      ∧ FacesLast .resize 16#32 (.live 254#8 topObject) ∧ Stale lastHandle (.live 254#8 topObject)
      ∧ FacesLast .resize 16#32 (.forwarded lastHandle.gen 7#8 ⟨1, 1#8⟩)
      ∧ FacesLast .resize 16#32 (.moving lastHandle.gen topObject) :=
  ⟨by decide, by decide, by decide, ⟨facesLast .., by decide⟩, ⟨facesLast .., by decide⟩, facesLast ..,
    facesLast .., by decide, facesLast .., facesLast ..⟩

theorem witness_ReadRecordReturnsTheRecord (r : Record) :
    (Accepting (asking (arg 4095#32)) ∧ 1 ≤ (1#32).toNat ∧ (4095#32).toNat ≤ 4095
        ∧ ¬ (1 ≤ (0#32).toNat) ∧ ¬ ((4096#32).toNat ≤ 4095))
      ∧ ServesSingle (facing .readRecord (arg 4095#32) r) .readRecord (arg 4095#32)
      ∧ (facing .readRecord (arg 4095#32) r).record (arg 4095#32).at0.toNat = r :=
  ⟨by decide, ⟨rfl, rfl⟩, recordIn_putRecord_same _ _ _⟩

theorem witness_LookupTestsItsRequest :
    Accepting (asking (lastArgs 0x00FFFFFF#32))
      ∧ (Malformed 0x00000500#32 ∧ 16777216 ≤ (0x01000000#32).toNat
        ∧ ((0xFFFEFE00#32 : Word).extractLsb' 0 9).toNat = 0
        ∧ 256 < ((257#32 : Word).extractLsb' 0 9).toNat
        ∧ 2 ≤ ((0x00020001#32 : Word).extractLsb' 16 2).toNat)
      ∧ (¬ Malformed lastWord ∧ (0x00FFFFFF#32).toNat < 16777216
        ∧ 1 ≤ ((0x00010001#32 : Word).extractLsb' 0 9).toNat
        ∧ ((0x00010100#32 : Word).extractLsb' 0 9).toNat ≤ 256
        ∧ ((0x00010100#32 : Word).extractLsb' 16 2).toNat < 2) := by decide

/-! #### Walks -/

/-- A walker waits for the first access of a walk, the one granted. -/
def walkingFrom (w : Walker) (r : LinkRequest) (s : State) : State :=
  match w with
  | .commandUnit => { s with cmd := some ⟨.lookup, arg r.req.origin, .walkOpening r.req⟩ }
  | .engine .a => { s with engineA := .opening r }
  | .engine .b => { s with engineB := .opening r }

theorem walkingFrom_opens (w : Walker) (r : LinkRequest) (rec : Record) :
    Opens (walkingFrom w r (small.setRecord 4095 rec)) w r.req := by
  cases w with
  | commandUnit => exact ⟨rfl, _, rfl⟩
  | engine e => cases e <;> exact ⟨rfl, _, rfl, rfl⟩

/-- A cache entry from 0A0H:1 to FFFH:255 at hop count 8, the reset HOP_LIMIT. -/
def entry : CacheEntry := ⟨⟨0xA0, 1#8⟩, lastHandle, 8, (object 0#8).ext⟩

/-- Walk Engine A waits to walk from 0A0H:1, which the cache holds. -/
def hitting (access : AccessKind) (kind : RequestKind) (pins : BitVec 8) (e : CacheEntry) : State :=
  walkingFrom (.engine .a) (request access kind 0x0000A001#32)
    { (small.setRecord 4095 (.live 255#8 (object pins))) with cache := [e] }

theorem witness_FirstAccessOfNullOriginOrHit :
    (∀ w, Opens (walkingFrom w (request .read .lookup 0x000000FF#32) (small.setRecord 4095 .worn)) w
        (request .read .lookup 0x000000FF#32).req) ∧ Null 0x000000FF#32
      ∧ (∀ access kind pins, Opens (hitting access kind pins entry) (.engine .a)
            (request access kind 0x0000A001#32).req
          ∧ (hitting access kind pins entry).config.cacheEn = true
          ∧ (hitting access kind pins entry).cache = [] ++ entry :: []
          ∧ entry.hops ≤ (hitting access kind pins entry).config.hopLimit
          ∧ (hitting access kind pins entry).record entry.final.slot = .live entry.final.gen (object pins))
      ∧ Spells 0x0000A001#32 entry.origin
      ∧ finalFailure (request .undefined .lookup 0x0000A001#32).req entry.ext = some .rights
      ∧ finalFailure (request .read .lookup 0x0000A001#32).req entry.ext = none
      ∧ finalFailure (request .read .lookupPin 0x0000A001#32).req entry.ext = none
      ∧ (object 255#8).pins = 255#8 ∧ (object 254#8).pins ≠ 255#8 :=
  ⟨fun _ => walkingFrom_opens .., by decide,
    fun _ _ _ => ⟨⟨rfl, _, rfl, rfl⟩, rfl, rfl, Nat.le_refl _, rfl⟩,
    by decide, by decide, by decide, by decide, by decide, by decide⟩

/-- Walk Engine A waits to read FFFH:255 at hop count 2 of a walk from 0A0H:1 with limit `limit`, and
finds a given record. -/
def reading (access : AccessKind) (kind : RequestKind) (limit : Nat) (rec : Record) : State :=
  { (small.setRecord 4095 rec) with
    engineA := .walking (request access kind 0x0000A001#32)
      ⟨0#16, limit, ⟨1#8, ⟨0xA1, 1#8⟩⟩, lastHandle, 2⟩
    config := { powerOnConfig with shortcutEn := true } }

/-- What that access reads with. -/
def lastLook (access : AccessKind) (kind : RequestKind) (limit : Nat) : Look :=
  ⟨.engine .a, (request access kind 0x0000A001#32).req, 0#16, limit, lastHandle, 2,
    some ⟨1#8, ⟨0xA1, 1#8⟩⟩⟩

/-- That access reads FFFH:255 and finds the record. -/
abbrev ReadsLast (access : AccessKind) (kind : RequestKind) (limit : Nat) (rec : Record) : Prop :=
  Reads (.walkHopAccess (.engine .a)) (reading access kind limit rec) (lastLook access kind limit)
      (reading access kind limit rec)
    ∧ (reading access kind limit rec).record (lastLook access kind limit).current.slot = rec

theorem readsLast (access : AccessKind) (kind : RequestKind) (limit : Nat) (rec : Record) :
    ReadsLast access kind limit rec :=
  ⟨.later _ _ ⟨0#16, limit, ⟨1#8, ⟨0xA1, 1#8⟩⟩, lastHandle, 2⟩ _ ⟨rfl, _, rfl, rfl⟩,
    recordIn_putRecord_same _ _ _⟩

/-- Each way in which an access reads a record: after a miss, after a probe that finds too many hops, and
later in a walk; by each walker. -/
theorem witness_Reads :
    (∀ w, Reads (.walkFirstAccess w)
        (walkingFrom w (request .read .lookup lastWord) (small.setRecord 4095 .worn))
        ⟨w, (request .read .lookup lastWord).req, 0#16, 8, lastHandle, 0, none⟩
        (walkingFrom w (request .read .lookup lastWord) (small.setRecord 4095 .worn)))
      ∧ Reads (.walkFirstAccess (.engine .a)) (hitting .read .lookup 0#8 { entry with hops := 9 })
        ⟨.engine .a, (request .read .lookup 0x0000A001#32).req, 0#16, 8, ⟨0xA0, 1#8⟩, 0, none⟩
        { hitting .read .lookup 0#8 { entry with hops := 9 } with cache := [] } := by
  constructor
  · intro w
    have h := Reads.unprobed w (request .read .lookup lastWord).req lastHandle
      (walkingFrom w (request .read .lookup lastWord) (small.setRecord 4095 .worn))
      (walkingFrom_opens w _ _) (by decide)
    cases w with
    | commandUnit => exact h (Or.inr (fun e he => absurd he List.not_mem_nil))
    | engine e => cases e <;> exact h (Or.inr (fun e he => absurd he List.not_mem_nil))
  · refine Reads.overLimit (.engine .a) _ ⟨0xA0, 1#8⟩
      (hitting .read .lookup 0#8 { entry with hops := 9 }) ⟨rfl, _, rfl, rfl⟩ (by decide) rfl
      ⟨_, List.mem_singleton_self _, rfl⟩ ?_
    intro e he _
    cases List.mem_singleton.mp he
    decide

theorem witness_WalkRefusesOrHops :
    ReadsLast .read .lookup 15 .worn
      ∧ ReadsLast .read .lookup 15 (.live 254#8 (object 0#8))
      ∧ Stale lastHandle (.live 254#8 (object 0#8))
      ∧ ReadsLast .read .lookup 2 (.forwarded lastHandle.gen 7#8 ⟨1, 1#8⟩)
      ∧ (lastLook .read .lookup 2).limit ≤ (lastLook .read .lookup 2).hops
      ∧ ReadsLast .read .lookup 3 (.forwarded lastHandle.gen 7#8 ⟨1, 1#8⟩)
      ∧ (lastLook .read .lookup 3).hops < (lastLook .read .lookup 3).limit :=
  ⟨readsLast .., readsLast .., by decide, readsLast .., by decide, readsLast .., by decide⟩

theorem witness_LookupAtALiveRecord :
    (ReadsLast .write .lookup 15 (.live lastHandle.gen (object 3#8))
        ∧ (lastLook .write .lookup 15).req.kind ≠ .lookupPin
        ∧ finalFailure (lastLook .write .lookup 15).req (object 3#8).ext = none)
      ∧ ReadsLast .write .lookup 15 (.live lastHandle.gen topObject)
      ∧ finalFailure (lastLook .write .lookup 15).req topObject.ext = some .bounds :=
  ⟨⟨readsLast .., by decide, by decide⟩, readsLast .., by decide⟩

theorem witness_LookupPinAtALiveRecord :
    (lastLook .read .lookupPin 15).req.kind = .lookupPin
      ∧ (ReadsLast .read .lookupPin 15 (.live lastHandle.gen topObject)
        ∧ finalFailure (lastLook .read .lookupPin 15).req topObject.ext = some .bounds)
      ∧ (ReadsLast .read .lookupPin 15 (.live lastHandle.gen (object 255#8))
        ∧ finalFailure (lastLook .read .lookupPin 15).req (object 255#8).ext = none
        ∧ (object 255#8).pins = 255#8)
      ∧ ReadsLast .read .lookupPin 15 (.live lastHandle.gen (object 254#8))
      ∧ finalFailure (lastLook .read .lookupPin 15).req (object 254#8).ext = none
      ∧ (object 254#8).pins ≠ 255#8 :=
  ⟨by decide, ⟨readsLast .., by decide⟩, ⟨readsLast .., by decide, by decide⟩, readsLast .., by decide,
    by decide⟩

/-- That state with seven or eight requests parked. -/
def crowded (n : Nat) : State :=
  { reading .write .lookup 15 (.moving 255#8 (object 0#8)) with
    parkList := List.replicate n ⟨request .write .lookup lastWord, 4095⟩ }

theorem witness_WalkAtAMovingRecord :
    (ReadsLast .write .lookup 15 (.moving lastHandle.gen topObject)
        ∧ finalFailure (lastLook .write .lookup 15).req topObject.ext = some .bounds)
      ∧ (ReadsLast .read .lookup 15 (.moving lastHandle.gen (object 0#8))
        ∧ finalFailure (lastLook .read .lookup 15).req (object 0#8).ext = none
        ∧ (lastLook .read .lookup 15).req.access ≠ .write
        ∧ (lastLook .read .lookup 15).req.kind ≠ .lookupPin)
      ∧ (ReadsLast .read .lookupPin 15 (.moving lastHandle.gen (object 0#8))
        ∧ (lastLook .read .lookupPin 15).req.kind = .lookupPin)
      ∧ (∀ n, Reads (.walkHopAccess (.engine .a)) (crowded n) (lastLook .write .lookup 15) (crowded n)
          ∧ (crowded n).record 4095 = .moving lastHandle.gen (object 0#8))
      ∧ finalFailure (lastLook .write .lookup 15).req (object 0#8).ext = none
      ∧ 8 ≤ (crowded 8).parkList.length + (crowded 8).releaseQueue.length
      ∧ (crowded 7).parkList.length + (crowded 7).releaseQueue.length < 8
      ∧ (lastLook .write .lookup 15).walker = .engine .a :=
  ⟨⟨readsLast .., by decide⟩, ⟨readsLast .., by decide, by decide, by decide⟩, ⟨readsLast .., by decide⟩,
    fun n => ⟨.later _ _ ⟨0#16, 15, ⟨1#8, ⟨0xA1, 1#8⟩⟩, lastHandle, 2⟩ _ ⟨rfl, _, rfl, rfl⟩, rfl⟩,
    by decide, by decide, by decide, rfl⟩

/-- The shortcut 0A0H:1 to 0A2H:1. -/
def rewrite : Shortcut := ⟨0xA0, ⟨1#8, ⟨0xA1, 1#8⟩⟩, ⟨0xA2, 1#8⟩, 0#16⟩

theorem witness_ShortcutRewritesTheOrigin :
    (∀ e, ({ small with engineA := .shortcut rewrite }.setEngine e (.shortcut rewrite)).engine e
        = .shortcut rewrite)
      ∧ { small with engineA := .shortcut rewrite }.granted = some (walkerClient (.engine .a))
      ∧ { small with engineB := .shortcut rewrite }.granted = some (walkerClient (.engine .b))
      ∧ (∃ args x, { small with cmd := some ⟨.lookup, arg lastWord,
            .walkShortcut rewrite (refusal .rights 2 false)⟩ }.cmd
          = some ⟨.lookup, args, .walkShortcut rewrite x⟩)
      ∧ (small.setRecord 0xA0 (.forwarded 1#8 2#8 ⟨0xA1, 1#8⟩)).record rewrite.slot
          = .forwarded rewrite.reading.gen 2#8 rewrite.reading.target
      ∧ small.epoch = rewrite.snapshot
      ∧ { small with epoch := 65535#16 }.epoch ≠ rewrite.snapshot
      ∧ ∀ cls, small.record rewrite.slot ≠ .forwarded rewrite.reading.gen cls rewrite.reading.target :=
  ⟨fun e => by cases e <;> rfl, by decide, by decide, ⟨_, _, rfl⟩, by decide, by decide, by decide,
    fun _ h => by cases h⟩

theorem witness_EnginesTakeReleasedRequestsFirst :
    small.phase = .running
      ∧ ((reading .read .lookup 8 .worn).engineA ≠ .idle
        ∧ { reading .read .lookup 8 .worn with engineB := .shortcut rewrite }.engineB ≠ .idle)
      ∧ (small.releaseQueue = [] ∧ small.lookupQueue = [])
      ∧ (small.engineA = .idle
        ∧ (reading .read .lookup 8 .worn).engineA ≠ .idle ∧ (reading .read .lookup 8 .worn).engineB = .idle)
      ∧ (request .read .lookup lastWord).req.offset < 16777216
      ∧ (LinkMalformed (request .read .unpin 0#32).req
        ∧ LinkMalformed (request .undefined .lookup lastWord).req)
      ∧ (¬ LinkMalformed (request .undefined .unpin lastWord).req
        ∧ (request .undefined .unpin lastWord).req.kind = .unpin)
      ∧ ¬ LinkMalformed (request .read .lookup 0#32).req
      ∧ (request .read .lookup 0#32).req.kind ≠ .unpin := by
  unfold LinkMalformed
  decide

/-- A request stands at the head of the Release Queue, or of the Lookup Queue with the other empty. -/
theorem witness_EnginesTakeReleasedRequestsFirst_heads :
    { small with releaseQueue := [request .read .lookup lastWord] }.releaseQueue
        = request .read .lookup lastWord :: []
      ∧ { small with lookupQueue := [request .read .lookup lastWord] }.releaseQueue = []
      ∧ { small with lookupQueue := [request .read .lookup lastWord] }.lookupQueue
        = request .read .lookup lastWord :: [] := by decide

/-- Walk Engine A waits for the access of a link UNPIN of FFFH:255, or engine B does. -/
def unpinning (e : EngineId) (rec : Record) : State :=
  (small.setRecord 4095 rec).setEngine e (.unpinning (request .read .unpin lastWord))

theorem witness_LinkUnpinLowersThePinCount :
    (∀ e rec, (unpinning e rec).granted = some (walkerClient (.engine e))
        ∧ (unpinning e rec).engine e = .unpinning (request .read .unpin lastWord)
        ∧ (unpinning e rec).record lastHandle.slot = rec)
      ∧ lastHandle = ⟨(lastWord.extractLsb' 8 12).toNat, lastWord.extractLsb' 0 8⟩
      ∧ (Record.live 254#8 (object 0#8)).gen ≠ lastHandle.gen ∧ Record.worn.gen ≠ 1#8
      ∧ lastHandle.gen = 255#8
      ∧ (1#4 = (object 0#8).ext.domain ∧ (2#4 ≠ (object 0#8).ext.domain ∧ (object 0#8).ext.shared = false))
      ∧ (object 0#8).pins = 0#8 ∧ (object 1#8).pins ≠ 0#8 :=
  ⟨fun e rec => by cases e <;> exact ⟨rfl, rfl, recordIn_putRecord_same _ _ _⟩,
    by decide, by decide, by decide, by decide, by decide, by decide⟩

/-! #### Forwarding, moves, sweeps -/

theorem witness_ForwardTestsItsArguments :
    (Accepting (asking ⟨0x000FFF01#32, 0x00000101#32, 0#32, 0#32⟩)
        ∧ Spells 0x000FFF01#32 ⟨4095, 1#8⟩ ∧ Spells lastWord lastHandle ∧ Spells 0x00000101#32 ⟨1, 1#8⟩)
      ∧ (Malformed 0x00000500#32 ∧ Null 0x00000007#32)
      ∧ (lastHandle.slot = (Handle.mk 4095 1#8).slot ∧ (Handle.mk 1 1#8).slot ≠ lastHandle.slot) := by
  decide

/-- An access of FORWARD from FFFH:255 to 1:1 is granted and finds a given record at FFFH. -/
def sourcing (phase : CmdPhase) (rec : Record) : State :=
  { (small.setRecord 4095 rec) with cmd := some ⟨.forward, lastArgs 0x00000101#32, phase⟩ }

/-- That access serves its phase and finds that record. -/
theorem sourcing_serves (phase : CmdPhase) (rec : Record) :
    ServesPhase (sourcing phase rec) .forward (lastArgs 0x00000101#32) phase
      ∧ (sourcing phase rec).record lastHandle.slot = rec :=
  ⟨⟨rfl, rfl⟩, recordIn_putRecord_same _ _ _⟩

theorem witness_FromAccessChecksTheSource :
    ∀ rec ∈ [Record.worn, .free 255#8, .live 254#8 (object 0#8), .moving 255#8 (object 0#8),
        .live 255#8 (object 255#8), .live 255#8 (object 0#8), .forwarded 255#8 7#8 ⟨1, 1#8⟩],
      ServesPhase (sourcing (.fromCheck lastHandle ⟨1, 1#8⟩) rec) .forward (lastArgs 0x00000101#32)
          (.fromCheck lastHandle ⟨1, 1#8⟩)
        ∧ (sourcing (.fromCheck lastHandle ⟨1, 1#8⟩) rec).record lastHandle.slot = rec
        ∧ Stale lastHandle (.free 255#8) ∧ Stale lastHandle (.live 254#8 (object 0#8))
        ∧ (object 255#8).pins ≠ 0#8 ∧ (object 0#8).pins = 0#8 :=
  fun _ _ => ⟨(sourcing_serves ..).1, (sourcing_serves ..).2, by decide, by decide, by decide, by decide⟩

theorem witness_CheckWalkFollowsTheChain :
    (∀ k rec, ServesPhase (sourcing (.checkWalk ⟨2, 1#8⟩ ⟨1, 1#8⟩ 0#16 lastHandle k) rec) .forward
          (lastArgs 0x00000101#32) (.checkWalk ⟨2, 1#8⟩ ⟨1, 1#8⟩ 0#16 lastHandle k)
        ∧ (sourcing (.checkWalk ⟨2, 1#8⟩ ⟨1, 1#8⟩ 0#16 lastHandle k) rec).record lastHandle.slot = rec)
      ∧ (∀ rec, ServesPhase (sourcing (.checkWalk lastHandle ⟨1, 1#8⟩ 0#16 lastHandle 15) rec) .forward
          (lastArgs 0x00000101#32) (.checkWalk lastHandle ⟨1, 1#8⟩ 0#16 lastHandle 15))
      ∧ Stale lastHandle (.live 254#8 (object 0#8))
      ∧ (Record.forwarded 255#8 7#8 ⟨1, 1#8⟩ ≠ .worn
        ∧ ¬ Stale lastHandle (.forwarded 255#8 7#8 ⟨1, 1#8⟩)
        ∧ (Record.forwarded 255#8 7#8 ⟨1, 1#8⟩).gen = lastHandle.gen
        ∧ lastHandle.slot ≠ (Handle.mk 2 1#8).slot)
      ∧ (¬ Stale lastHandle (.moving 255#8 (object 0#8))
        ∧ (Record.moving 255#8 (object 0#8)).object ≠ none)
      ∧ 14 < 15 :=
  ⟨fun _ _ => sourcing_serves .., fun _ => (sourcing_serves ..).1, by decide, by decide, by decide,
    by decide⟩

theorem witness_ForwardFinalAccessWritesOrIsContended :
    (∀ snapshot rec,
        ServesPhase (sourcing (.final lastHandle ⟨1, 1#8⟩ snapshot ⟨1, 1#8⟩ 15) rec) .forward
          (lastArgs 0x00000101#32) (.final lastHandle ⟨1, 1#8⟩ snapshot ⟨1, 1#8⟩ 15)
        ∧ (sourcing (.final lastHandle ⟨1, 1#8⟩ snapshot ⟨1, 1#8⟩ 15) rec).epoch = 0#16
        ∧ (sourcing (.final lastHandle ⟨1, 1#8⟩ snapshot ⟨1, 1#8⟩ 15) rec).record lastHandle.slot = rec)
      ∧ 0#16 ≠ 65535#16
      ∧ (Record.live 254#8 (object 0#8)).gen ≠ lastHandle.gen
      ∧ (∃ o, Record.live 255#8 (object 0#8) = .live lastHandle.gen o ∧ o.pins = 0#8 ∧ o.cls = 9#8)
      ∧ (∃ old, Record.forwarded 255#8 9#8 ⟨1, 1#8⟩ = .forwarded lastHandle.gen 9#8 old)
      ∧ ¬ ((∃ g o, Record.live 255#8 (object 1#8) = .live g o ∧ o.pins = 0#8)
            ∨ ∃ g c old, Record.live 255#8 (object 1#8) = .forwarded g c old) :=
  ⟨fun _ _ => ⟨(sourcing_serves ..).1, rfl, (sourcing_serves ..).2⟩, by decide, by decide,
    ⟨_, rfl, by decide, by decide⟩, ⟨_, rfl⟩, by simp [object]⟩

/-- MOVE_BEGIN of FFFH:255 is granted, with a given Move Table. -/
def beginning (a1 : Word) (o : Object) (moves : Quad MoveEntry) : State :=
  { facing .moveBegin (lastArgs a1) (.live 255#8 o) with moves := moves }

theorem witness_MoveBeginOpensAMove :
    (Accepting (asking (lastArgs 0xFFFFFFF0#32)) ∧ ¬ Malformed lastWord ∧ ¬ Null lastWord
        ∧ (0xFFFFFFF0#32).toNat % 16 = 0 ∧ (0xFFFFFFFF#32).toNat % 16 ≠ 0)
      ∧ (FacesLast .moveBegin 0#32 .worn
        ∧ FacesLast .moveBegin 0#32 (.free 255#8) ∧ Stale lastHandle (.free 255#8)
        ∧ FacesLast .moveBegin 0#32 (.moving lastHandle.gen (object 0#8))
        ∧ FacesLast .moveBegin 0#32 (.forwarded lastHandle.gen 7#8 ⟨1, 1#8⟩)
        ∧ FacesLast .moveBegin 0#32 (.live lastHandle.gen (object 1#8)) ∧ (object 1#8).pins ≠ 0#8)
      ∧ (∀ a1 o moves, ServesHandle (beginning a1 o moves) .moveBegin (lastArgs a1) lastHandle
        ∧ (beginning a1 o moves).record lastHandle.slot = .live lastHandle.gen o)
      ∧ (topObject.pins = 0#8 ∧ 4294967296 < (lastArgs 0xFFFFFFF8#32).at1.toNat + topObject.ext.length
        ∧ (lastArgs 0xFFFFFFF0#32).at1.toNat + topObject.ext.length ≤ 4294967296)
      ∧ (∃ i, (beginning 0#32 topObject ⟨.idle, .idle, .idle, .lapsed 4095⟩).moves.get i
          = .lapsed lastHandle.slot)
      ∧ (∀ i, (beginning 0#32 topObject ⟨.lapsed 1, .lapsed 2, .lapsed 3, .lapsed 4⟩).moves.get i
            ≠ .lapsed lastHandle.slot
          ∧ (beginning 0#32 topObject ⟨.lapsed 1, .lapsed 2, .lapsed 3, .lapsed 4⟩).moves.get i ≠ .idle)
      ∧ (beginning 0#32 topObject ⟨.lapsed 1, .lapsed 2, .lapsed 3, .idle⟩).moves.get 3 = .idle
      ∧ (∀ j, (beginning 0#32 topObject ⟨.lapsed 1, .lapsed 2, .lapsed 3, .idle⟩).moves.get j
          ≠ .lapsed lastHandle.slot)
      ∧ (∀ j, j < 3 →
          (beginning 0#32 topObject ⟨.lapsed 1, .lapsed 2, .lapsed 3, .idle⟩).moves.get j ≠ .idle) :=
  ⟨by decide, ⟨facesLast .., facesLast .., by decide, facesLast .., facesLast .., facesLast .., by decide⟩,
    fun a1 o _ => ⟨(facesLast .moveBegin a1 (.live 255#8 o)).1, (facesLast .moveBegin a1 (.live 255#8 o)).2⟩,
    by decide, ⟨3, rfl⟩, by decide, rfl, by decide, by decide⟩

/-- MOVE_COMMIT or MOVE_ABORT of FFFH:255 is granted, with a given entry 3 of the Move Table. -/
def ending (k : Cmd) (e : MoveEntry) (rec : Record) : State :=
  { facing k (lastArgs 0#32) rec with moves := ⟨.idle, .idle, .idle, e⟩ }

theorem witness_CommitAndAbortEndAMove :
    (∀ k e rec, ServesHandle (ending k e rec) k (lastArgs 0#32) lastHandle
        ∧ (ending k e rec).record lastHandle.slot = rec
        ∧ (ending k e rec).moves.get 3 = e)
      ∧ (∀ k rec j, ((ending k .idle rec).moves.get j).names lastHandle.slot = false)
      ∧ (∀ k rec, NamedBy (ending k (.lapsed lastHandle.slot) rec) lastHandle.slot 3)
      ∧ (∀ k rec, NamedBy (ending k (.copying lastHandle.slot 0#32 65535) rec) lastHandle.slot 3)
      ∧ Stale lastHandle (.free 255#8)
      ∧ (Record.live 255#8 (object 0#8) ≠ .worn ∧ ¬ Stale lastHandle (.live 255#8 (object 0#8)))
      ∧ (Record.moving 254#8 (object 0#8)).gen ≠ lastHandle.gen
      ∧ Record.moving 255#8 (object 0#8) = .moving lastHandle.gen (object 0#8) := by
  refine ⟨fun k e rec => ⟨(facesLast k 0#32 rec).1, (facesLast k 0#32 rec).2, rfl⟩, ?_, ?_, ?_, by decide,
    by decide, by decide, rfl⟩
  · intro k rec j
    match j with
    | 0 => rfl
    | 1 => rfl
    | 2 => rfl
    | 3 => rfl
  · intro k rec
    refine ⟨rfl, fun j hj => ?_⟩
    match j, hj with
    | 3, _ => rfl
  · intro k rec
    refine ⟨rfl, fun j hj => ?_⟩
    match j, hj with
    | 3, _ => rfl

theorem witness_TicksCountDownAndExpire :
    (moving 65535).phase = .running
      ∧ (moving 65535).moves.get 0 = .copying 0x90 0x00900000#32 (65534 + 1)
      ∧ (moving 1).moves.get 0 = .copying 0x90 0x00900000#32 (0 + 1)
      ∧ (moving 0).moves.get 0 = .copying 0x90 0x00900000#32 0
      ∧ (moving 0).moves.get 3 = .idle
      ∧ (ending .moveAbort (.lapsed 4095) .worn).moves.get 3 = .lapsed 4095
      ∧ ({ moving 0 with expired := [0, 3] }.expired = 0 :: [3] ∧ (moving 0).expired = []) := by decide

theorem witness_ExpiryAccessLapsesAMove :
    ({ moving 0 with pendingExpiries := [0], expired := [3] }.expiries = 0 :: [3]
        ∧ { moving 0 with pendingExpiries := [0], expired := [3] }.granted = some .moveTimer
        ∧ { moving 0 with expired := [0] }.expiries = 0 :: []
        ∧ { moving 0 with expired := [0] }.granted = some .moveTimer
        ∧ (moving 0).moves.get 0 = .copying 0x90 0x00900000#32 0
        ∧ (moving 0).record 0x90
          = .moving 1#8 { object 0#8 with ext := { (object 0#8).ext with length := 2048 } })
      ∧ ({ moving 1 with pendingExpiries := [0] }.granted = some .moveTimer
        ∧ ∀ n b, (moving 1).moves.get 0 ≠ .copying n b 0) :=
  ⟨by decide, by decide, fun _ _ h => by cases h⟩

theorem witness_SweepStartLatchesTheSelection :
    (Accepting sweepingOpen ∧ sweepingOpen.sweep.state ≠ .idle)
      ∧ (Accepting (asking ⟨0x0FFF0FFF#32, 0x00000111#32, 0#32, 0#32⟩)
        ∧ small.sweep.state = .idle)
      ∧ (((0x0FFF0FFF#32 : Word).extractLsb' 0 13).toNat = 4095
        ∧ ((0x0FFF0FFF#32 : Word).extractLsb' 16 13).toNat = 4095
        ∧ ((0x00010001#32 : Word).extractLsb' 0 13).toNat = 1
        ∧ ((0x00010001#32 : Word).extractLsb' 16 13).toNat = 1
        ∧ ((0x10001000#32 : Word).extractLsb' 0 13).toNat = 4096
        ∧ ((0x10001000#32 : Word).extractLsb' 16 13).toNat = 4096)
      ∧ ((0x0000001F#32 : Word).extractLsb' 8 2 = 0#2 ∧ (0x0000010E#32 : Word).extractLsb' 8 2 = 1#2
        ∧ (0x0000020E#32 : Word).extractLsb' 8 2 = 2#2 ∧ (0x0000030E#32 : Word).extractLsb' 8 2 = 3#2)
      ∧ ((0x0000010E#32).getLsbD 0 = false ∧ (0x0000010E#32).getLsbD 4 = false
        ∧ (0x00000111#32).getLsbD 4 = true ∧ (0x00000101#32).getLsbD 0 = true) := by decide

theorem witness_SweepStopAsksForTheEnd :
    (Accepting sweepingOpen ∧ sweepingOpen.sweep.state = .running)
      ∧ (Accepting { small with sweep := { resetSweep with state := .stopping } }
        ∧ { small with sweep := { resetSweep with state := .stopping } }.sweep.state = .stopping)
      ∧ (Accepting small ∧ small.sweep.state = .idle) := by decide

/-- The Sweep Unit is granted at the cursor FFFH, its last slot, and finds a given record. -/
theorem sweeping_granted (states : BitVec 5) (action : SweepAction) (rec : Record) :
    (sweeping states action rec).granted = some .sweepUnit
      ∧ (sweeping states action rec).sweep.cursor = 4095
      ∧ (sweeping states action rec).sweep.sel.action = action
      ∧ (sweeping states action rec).record 4095 = rec :=
  ⟨rfl, rfl, rfl, recordIn_putRecord_same _ _ _⟩

/-- With a care mask of zeros a record of a selected state matches. -/
theorem sweeping_matches (states : BitVec 5) (action : SweepAction) (rec : Record)
    (h : states.getLsbD rec.stateCode = true) : Matches (sweeping states action rec).sweep.sel rec :=
  ⟨h, fun _ c => by simp [sweeping] at c, fun _ c => by simp [sweeping] at c,
    fun c => by simp [sweeping] at c⟩

theorem witness_VisitActsOnTheRecordAtTheCursor :
    (∀ states action rec, (sweeping states action rec).granted = some .sweepUnit
        ∧ (sweeping states action rec).sweep.cursor = 4095
        ∧ (sweeping states action rec).sweep.sel.action = action
        ∧ (sweeping states action rec).record 4095 = rec)
      ∧ ¬ Matches (sweeping 0#5 .count .worn).sweep.sel .worn
      ∧ Matches (sweeping 0b10000#5 .count .worn).sweep.sel .worn
      ∧ (∀ action, ∀ rec ∈ [Record.live 255#8 (object 0#8), .live 255#8 (object 255#8),
          .moving 255#8 (object 0#8), .forwarded 255#8 7#8 ⟨1, 1#8⟩],
          Matches (sweeping 0b01110#5 action rec).sweep.sel rec)
      ∧ (object 255#8).pins ≠ 0#8 ∧ (object 0#8).pins = 0#8 := by
  refine ⟨fun _ _ _ => sweeping_granted .., fun h => ?_, sweeping_matches _ _ _ (by decide), ?_, by decide,
    by decide⟩
  · exact absurd h.1 (by decide)
  · intro action rec h
    apply sweeping_matches
    simp only [List.mem_cons, List.not_mem_nil, or_false] at h
    rcases h with h | h | h | h <;> subst h <;> decide

/-! #### The link and the configuration -/

theorem witness_RequestsAreAcknowledgedInOrder :
    (small.phase = .running ∧ small.gate ≠ .opened)
      ∧ ({ small with gate := .opened, ports := small.ports.set 3 ⟨0, [0#4, 1#4, 2#4, 15#4]⟩ }.gate = .opened
        ∧ ({ small with ports := small.ports.set 3 ⟨0, [0#4, 1#4, 2#4, 15#4]⟩ }.ports.get 3).credits = 0)
      ∧ ({ small with ports := small.ports.set 3 ⟨3, [15#4]⟩ }.ports.get 3).credits ≠ 0
      ∧ (0x000000F0#32 : Word).extractLsb' 4 4
        ∈ ({ small with ports := small.ports.set 3 ⟨3, [15#4]⟩ }.ports.get 3).tags
      ∧ (0x000000E0#32 : Word).extractLsb' 4 4
        ∉ ({ small with ports := small.ports.set 3 ⟨3, [15#4]⟩ }.ports.get 3).tags := by decide

theorem witness_AcceptedResponseReturnsCreditAndTag :
    small.phase = .running
      ∧ { small with responses := [⟨3, 15#4, refusal .chainLimit 15 false⟩] }.responses
        = ⟨3, 15#4, refusal .chainLimit 15 false⟩ :: []
      ∧ small.responses = [] := by decide

theorem witness_LinkCommandsMoveTheGate :
    Accepting small ∧ small.gate ≠ .opened ∧ { small with gate := .opened }.gate = .opened
      ∧ { small with gate := .draining }.gate ≠ .opened := by decide

theorem witness_SetPortDomainWritesOneEntry :
    Accepting (asking ⟨3#32, 15#32, 0#32, 0#32⟩)
      ∧ ((3#32).toNat = (3 : Fin 4).val ∧ 1 ≤ (1#32).toNat ∧ (15#32).toNat ≤ 15)
      ∧ (3 < (4#32).toNat ∧ (0#32).toNat = 0 ∧ 15 < (16#32).toNat) := by decide

theorem witness_ConfigFieldsAreWrittenAndRead :
    Accepting (asking ⟨5#32, 4095#32, 0#32, 0#32⟩)
      ∧ (fieldRange 6 = none ∧ fieldRange 5 = some (0, 4095) ∧ fieldRange 0 = some (1, 15)
        ∧ fieldRange 4 = some (1, 65535) ∧ fieldRange 2 = some (0, 1))
      ∧ (∀ v ∈ [0#32, 1#32],
        ServesSingle (facing .setConfig ⟨2#32, v, 0#32, 0#32⟩ .worn) .setConfig ⟨2#32, v, 0#32, 0#32⟩) :=
  ⟨by decide, by decide, fun _ _ => ⟨rfl, rfl⟩⟩

/-! #### The laws: a state in which every unit is at work -/

/-- A request on a port with tag 2. -/
def onPort (port : Fin 4) (origin : Word) : LinkRequest :=
  { request .write .lookup origin with port := port }

/-- Slot 1 is being moved, with a request parked on it; 3 forwards to 2, which is pinned and cached; 4 is
worn; engine A walks; a sweep runs; and MOVE_COMMIT's access is the next event. -/
def lively : State :=
  { State.reset with
    pending := [.moveCommitAccess]
    records := [(1, .moving 1#8 (object 0#8)), (2, .live 1#8 (object 3#8)), (3, .forwarded 1#8 0#8 ⟨2, 1#8⟩),
      (4, .worn)]
    freeQueue := List.range' 5 4091
    wornCount := 1
    cache := [⟨⟨3, 1#8⟩, ⟨2, 1#8⟩, 1, (object 0#8).ext⟩]
    epoch := 1#16
    cmd := some ⟨.moveCommit, arg 0x00000101#32, .single⟩
    engineA := .walking (onPort 1 0x00000301#32) ⟨1#16, 8, ⟨1#8, ⟨2, 1#8⟩⟩, ⟨2, 1#8⟩, 1⟩
    moves := ⟨.copying 1 0x00900000#32 5, .lapsed 2, .idle, .idle⟩
    parkList := [⟨onPort 0 0x00000101#32, 1⟩]
    pendingExpiries := [3]
    gate := .opened
    ports := ⟨⟨3, [2#4]⟩, ⟨3, [2#4]⟩, ⟨3, [15#4]⟩, ⟨4, []⟩⟩
    responses := [⟨2, 15#4, refusal .chainLimit 15 false⟩]
    sweep :=
      { state := .running
        sel := { clearedSelection with
                 startSlot := 1, endSlot := 10, states := 0b01110#5, action := .retag }
        cursor := 4, matched := 3, acted := 3, skipped := 0, endKind := .none } }

/-- The records of that state. -/
theorem lively_record (n : Nat) :
    lively.record n = if n = 1 then .moving 1#8 (object 0#8) else if n = 2 then .live 1#8 (object 3#8)
      else if n = 3 then .forwarded 1#8 0#8 ⟨2, 1#8⟩ else if n = 4 then .worn else .free 1#8 := by
  simp only [State.record, lively, recordIn, eq_comm (a := n)]

theorem lively_store : StoreLaw lively := by
  unfold StoreLaw
  decide

theorem lively_queue : QueueLaw lively := by
  refine ⟨fun n => ?_, List.nodup_range', fun n h => ?_, ?_⟩
  · rw [lively_record]
    simp only [lively, List.mem_range'_1]
    split_ifs <;> simp <;> omega
  · rw [lively_record]
    split_ifs <;> first | omega | rfl
  · have split : List.range' 1 4095 = [1, 2, 3, 4] ++ List.range' 5 4091 := by
      rw [show (4095 : Nat) = 4 + 4091 from rfl, ← List.range'_append]
      rfl
    rw [split, List.countP_append]
    have rest : (List.range' 5 4091).countP (fun n => lively.record n == .worn) = 0 := by
      rw [List.countP_eq_zero]
      intro n hn
      rw [List.mem_range'_1] at hn
      rw [lively_record]
      split_ifs <;> first | omega | decide
    rw [rest]
    decide

theorem lively_pins : PinLaw lively := by
  intro n g o h
  rw [lively_record] at h
  split_ifs at h
  cases h
  rfl

theorem lively_moves : MoveLaw lively := by
  refine ⟨fun n g o h => ?_, fun i n b k h => ?_, fun i j n hi hj => ?_⟩
  · rw [lively_record] at h
    split_ifs at h with h1
    exact ⟨0, 0x00900000#32, 5, by rw [h1]; rfl⟩
  · match i with
    | 0 => cases h; exact ⟨_, _, rfl⟩
    | 1 => cases h
    | 2 => cases h
    | 3 => cases h
  · fin_cases i <;> fin_cases j <;> simp [lively, Quad.get, MoveEntry.names] at hi hj ⊢
    · omega
    · omega

theorem lively_extents : ExtentLaw lively := by
  refine ⟨fun n o h => ?_, fun i n b k h => ?_, (fun _ h => by cases h),
    (fun _ h => by cases h), (fun _ h => by cases h)⟩
  · rw [lively_record] at h
    split_ifs at h <;> cases h <;> decide
  · match i with
    | 0 => cases h; exact ⟨by decide, fun o ho => by cases ho; decide⟩
    | 1 => cases h
    | 2 => cases h
    | 3 => cases h

theorem lively_parks : ParkLaw lively ∧ ParkCapacity lively := by
  refine ⟨fun p hp => ?_, by unfold ParkCapacity; decide⟩
  cases List.mem_singleton.mp hp
  exact ⟨_, _, rfl⟩

theorem lively_cache : CacheLaw lively := by
  refine ⟨fun e he => ?_, by decide, by decide⟩
  cases List.mem_singleton.mp he
  exact ⟨_, rfl, rfl⟩

theorem lively_sweep : SweepLaw lively := by
  unfold SweepLaw
  decide

theorem lively_link : LinkLaw lively := by
  unfold LinkLaw
  decide

theorem lively_hops : HopLaw lively := by
  refine ⟨by decide, fun e r p h => ?_, fun c r p h hp => ?_, fun c sc x h hp => ?_, by decide⟩
  · cases e with
    | a => cases h; exact ⟨by decide, by decide, by decide⟩
    | b => cases h
  · cases h; cases hp
  · cases h; cases hp

theorem lively_settings : SettingsLaw lively := by
  unfold SettingsLaw
  decide

/-- The step from that state is the commit of the move. -/
theorem lively_steps : ∃ t, step lively = .next t ∧ t.record 1 = .live 1#8
    { object 0#8 with ext := { (object 0#8).ext with base := 0x00900000#32 } } := ⟨_, rfl, rfl⟩

theorem witness_StepKeepsTheStoreCanonical : ∃ s t, StoreLaw s ∧ step s = .next t :=
  ⟨lively, _, lively_store, rfl⟩

theorem witness_StepKeepsTheFreeSlotQueueExact : ∃ s t, QueueLaw s ∧ step s = .next t :=
  ⟨lively, _, lively_queue, rfl⟩

theorem witness_StepKeepsMovingRecordsUnpinned : ∃ s t, PinLaw s ∧ step s = .next t :=
  ⟨lively, _, lively_pins, rfl⟩

theorem witness_StepKeepsMovesAndRecordsMatched :
    ∃ s t, QueueLaw s ∧ MoveLaw s ∧ step s = .next t := ⟨lively, _, lively_queue, lively_moves, rfl⟩

theorem witness_StepKeepsExtentsLegal :
    ∃ s t, QueueLaw s ∧ MoveLaw s ∧ ExtentLaw s ∧ step s = .next t :=
  ⟨lively, _, lively_queue, lively_moves, lively_extents, rfl⟩

theorem witness_StepKeepsParkedRequestsOnMoves :
    ∃ s t, QueueLaw s ∧ MoveLaw s ∧ ParkLaw s ∧ ParkCapacity s ∧ step s = .next t :=
  ⟨lively, _, lively_queue, lively_moves, lively_parks.1, lively_parks.2, rfl⟩

theorem witness_StepKeepsTheCacheTrue : ∃ s t, QueueLaw s ∧ CacheLaw s ∧ step s = .next t :=
  ⟨lively, _, lively_queue, lively_cache, rfl⟩

theorem witness_StepKeepsTheSweepCounters : ∃ s t, SweepLaw s ∧ step s = .next t :=
  ⟨lively, _, lively_sweep, rfl⟩

theorem witness_StepKeepsEveryRequestHeldOnce : ∃ s t, LinkLaw s ∧ step s = .next t :=
  ⟨lively, _, lively_link, rfl⟩

theorem witness_StepKeepsWalksWithinTheHopLimit : ∃ s t, HopLaw s ∧ step s = .next t :=
  ⟨lively, _, lively_hops, rfl⟩

theorem witness_StepKeepsTheSettingsInRange : ∃ s t, SettingsLaw s ∧ step s = .next t :=
  ⟨lively, _, lively_settings, rfl⟩

theorem witness_GenerationsNeverFall :
    clearsDirectory .moveCommitAccess = false ∧ (∃ t, exec .moveCommitAccess lively = .next t)
      ∧ QueueLaw lively ∧ lively.record 4 = .worn :=
  ⟨rfl, ⟨_, rfl⟩, lively_queue, rfl⟩

/-- The last response waits while the link drains, and its acceptance is the next event. -/
def drainingLast : State :=
  { engaged .idle small with
    gate := .draining, pending := [.responseAccept]
    responses := [⟨0, 2#4, refusal .worn 0 false⟩] }

theorem witness_OnlyLinkOpenOpensTheGate :
    (Instr.linkOpen.wellFormed = true ∧ small.gate = .closed
      ∧ ∃ t, exec .linkOpen small = .next t ∧ t.gate ≠ .closed)
      ∧ LinkLaw drainingLast ∧ ClosedLaw drainingLast
      ∧ ∃ t, step drainingLast = .next t ∧ t.gate = .closed := by
  refine ⟨⟨rfl, rfl, _, rfl, by decide⟩, ?_, (fun h => by cases h), _, rfl, by decide⟩
  unfold LinkLaw
  decide

end Sys2Proof.Tests
end

/-! ## Acceptance and service of commands, handle arguments, ALTER, RESIZE, READ_RECORD (chapter 1)

The shared layer comes first: a completion and an acceptance in the terms of the statements, the form
tests of R3 for every command that names a record, and the named-record check of R4 at an access. The
four settled statements follow, each put together from these. -/

namespace Sys2Proof.Machine

open Sys2Proof Sys2Proof.Safety

/-! ### Completions and acceptances in the terms of the statements -/

/-- R155: a completion without results, at acceptance. -/
theorem State.finish_eq_completed (s : State) (k : Cmd) (o : OutcomeCode) :
    s.finish k o = completed s k.code o 0#32 0#32 0#32 := rfl

/-- R154: a command that passes its tests waits with the argument words as they stand. -/
theorem State.begin_eq_accepted (s : State) (k : Cmd) (phase : CmdPhase) :
    s.begin k s.args phase = accepted s k phase := rfl

/-- The handle of an access, as the statements spell it, is the one the model takes from ARG0 (R1). -/
theorem servesHandle_ofWord (s : State) (k : Cmd) (args : Quad Word) (h : Handle)
    (hs : ServesHandle s k args h) : Handle.ofWord args.at0 = h := hs.2.symm

/-! ### The form tests of R3 -/

/-- Acceptance of a lone handle argument: the refusal by form. -/
theorem acceptHandle_error (k : Cmd) (args : Quad Word) (s : State) (o : OutcomeCode)
    (ho : handleArgument args.at0 = .error o) : acceptHandle k args s = s.finish k o := by
  simp only [acceptHandle, ho]

/-- Acceptance of a lone handle argument: a word that spells a handle waits for its access. -/
theorem acceptHandle_ok (k : Cmd) (args : Quad Word) (s : State) (h : Handle)
    (hh : handleArgument args.at0 = .ok h) : acceptHandle k args s = s.begin k args .single := by
  simp only [acceptHandle, hh]

/-- The commands whose only argument is a handle are all submitted alike. -/
theorem exec_handleSubmission (i : Instr) (k : Cmd) (hi : (i, k) ∈ handleSubmissions) (s : State) :
    exec i s = .next (s.submit (acceptHandle k)) := by
  simp only [handleSubmissions, List.mem_cons, List.not_mem_nil, or_false, Prod.mk.injEq] at hi
  rcases hi with ⟨rfl, rfl⟩ | ⟨rfl, rfl⟩ | ⟨rfl, rfl⟩ | ⟨rfl, rfl⟩ | ⟨rfl, rfl⟩ <;> rfl

/-- Every command that names a record by ARG0 is refused, before any other test, with what the form test
gives. -/
theorem exec_naming_refused (i : Instr) (k : Cmd) (hi : (i, k) ∈ namingSubmissions) (s : State)
    (hs : Accepting s) (o : OutcomeCode) (ho : handleArgument s.args.at0 = .error o) :
    exec i s = .next (completed s k.code o 0#32 0#32 0#32) := by
  rw [← State.finish_eq_completed]
  rcases List.mem_append.mp hi with hi | hi
  · rw [exec_handleSubmission i k hi, s.submit_accepting _ hs, acceptHandle_error k _ s o ho]
  · simp only [List.mem_cons, List.not_mem_nil, or_false, Prod.mk.injEq] at hi
    rcases hi with ⟨rfl, rfl⟩ | ⟨rfl, rfl⟩ | ⟨rfl, rfl⟩ | ⟨rfl, rfl⟩
    · simp only [exec, execAlter, s.submit_accepting _ hs, ho]
    · simp only [exec, execResize, s.submit_accepting _ hs, ho]
    · simp only [exec, execForward, s.submit_accepting _ hs, ho]
    · simp only [exec, execMoveBegin, s.submit_accepting _ hs, ho]

/-- R3: malformed gives BAD_ARGUMENT and null gives NULL_HANDLE, for each command that names a record. -/
theorem naming_formTested (i : Instr) (k : Cmd) (hi : (i, k) ∈ namingSubmissions) (s : State)
    (hs : Accepting s) : FormTested i k.code s :=
  ⟨fun hm => exec_naming_refused i k hi s hs _ (handleArgument_malformed _ hm),
    fun hn => exec_naming_refused i k hi s hs _ (handleArgument_null _ hn)⟩

/-- A command whose lone handle argument spells a handle waits for its access (R154). -/
theorem exec_handleSubmission_accepted (i : Instr) (k : Cmd) (hi : (i, k) ∈ handleSubmissions)
    (s : State) (hs : Accepting s) (hm : ¬ Malformed s.args.at0) (hn : ¬ Null s.args.at0) :
    exec i s = .next (accepted s k .single) := by
  rw [exec_handleSubmission i k hi, s.submit_accepting _ hs,
    acceptHandle_ok k _ s _ (handleArgument_ok _ hm hn), State.begin_eq_accepted]

/-- R3, R86: after a `from` that spells a handle, FORWARD refuses a `to` that spells none. -/
theorem exec_forward_target_refused (s : State) (hs : Accepting s) (hm : ¬ Malformed s.args.at0)
    (hn : ¬ Null s.args.at0) (ht : Malformed s.args.at1 ∨ Null s.args.at1) :
    exec .forward s = .next (completed s 0x11#8 .badArgument 0#32 0#32 0#32) := by
  simp only [exec, execForward, s.submit_accepting _ hs, handleArgument_ok _ hm hn]
  rcases ht with ht | ht
  · simp only [(handleForm_malformed_iff _).mpr ht, State.finish_eq_completed, Cmd.code]
  · simp only [(handleForm_null_iff _).mpr ht, State.finish_eq_completed, Cmd.code]

/-- R76: a request that fails the tests of R61 is refused MALFORMED. -/
theorem exec_lookup_malformed (s : State) (hs : Accepting s)
    (hr : walkMalformed (lookupRequest s.args) = true) :
    exec .lookup s = .next (completed s 0x10#8 .malformed 0#32 0#32 0#32) := by
  simp only [exec, execLookup, s.submit_accepting _ hs, hr, if_true, State.finish_eq_completed, Cmd.code]

/-- Settles O14: R3 for every command that names a record. -/
theorem handleFormsAreTestedAtAcceptance : Obligations.HandleFormsAreTestedAtAcceptance := by
  intro s hs
  refine ⟨?named, ?lone, ?target, ?lookup⟩
  case named => exact fun i k hi => naming_formTested i k hi s hs
  case lone => exact fun i k hi hm hn => exec_handleSubmission_accepted i k hi s hs hm hn
  case target => exact fun hm hn ht => exec_forward_target_refused s hs hm hn ht
  case lookup =>
    intro hm
    exact exec_lookup_malformed s hs ((walkMalformed_iff _).mpr (Or.inl hm))

/-! ### The named-record check at an access (R4) -/

theorem namedCheck_worn (h : Handle) (r : Record) (hr : r = .worn) : namedCheck h r = some .worn := by
  rw [hr, namedCheck]

@[simp] theorem namedCheck_live_same (h : Handle) (o : Object) : namedCheck h (.live h.gen o) = none :=
  if_pos rfl

@[simp] theorem namedCheck_moving_same (h : Handle) (o : Object) :
    namedCheck h (.moving h.gen o) = none := if_pos rfl

@[simp] theorem namedCheck_forwarded_same (h : Handle) (c : BitVec 8) (target : Handle) :
    namedCheck h (.forwarded h.gen c target) = none := if_pos rfl

/-! ### One record written by an access -/

/-- The state with another record in one slot and another cache: what an access that writes one record
changes beside its completion. -/
def State.rewritten (s : State) (n : Nat) (r : Record) (cache : List CacheEntry) : State :=
  { s with records := putRecord s.records n r, cache := cache }

/-- An access that ends in such a state, in the terms of the statements: the record written, every other
kept, and nothing else changed but the cache and what a completion sets. -/
theorem exists_served_rewritten {s : State} {n : Nat} {r : Record} {cache : List CacheEntry}
    {code : BitVec 8} {o : OutcomeCode} {r0 r1 r2 : Word} {x : Host.Outcome State Fault Refusal}
    (hx : x = .next (served (s.rewritten n r cache) code o r0 r1 r2)) :
    ∃ t, x = .next t ∧ t.record n = r ∧ RecordsAgreeBut s t n
      ∧ t = served { s with records := t.records, cache := cache } code o r0 r1 r2 := by
  refine ⟨_, hx, ?_, ?_, rfl⟩
  · exact record_put_same s _ n r rfl
  · exact recordsAgreeBut_put s _ n r rfl

/-! ### ALTER (R14, R15) -/

/-- ALTER with a handle in ARG0 is judged by its packed word alone (R14). -/
theorem exec_alter_named (s : State) (hs : Accepting s) (hm : ¬ Malformed s.args.at0)
    (hn : ¬ Null s.args.at0) :
    exec .alter s = .next (if alterArgumentsOk s.args.at1 then accepted s .alter .single
      else completed s 0x08#8 .badArgument 0#32 0#32 0#32) := by
  simp only [exec, execAlter, s.submit_accepting _ hs, handleArgument_ok _ hm hn,
    State.finish_eq_completed, State.begin_eq_accepted, Cmd.code]

/-- The access of ALTER, when granted, is its body. -/
theorem exec_alterAccess_served (s : State) (args : Quad Word) (hs : ServesSingle s .alter args) :
    exec .alterAccess s = .next (alterBody args (s.grant .commandUnit)) :=
  congrArg _ (s.commandAccess_served .alter args alterBody hs)

/-- ALTER refuses what the named-record check refuses. -/
theorem alterBody_refused (args : Quad Word) (s : State) (h : Handle) (hh : Handle.ofWord args.at0 = h)
    (o : OutcomeCode) (ho : namedCheck h (s.record h.slot) = some o) :
    alterBody args s = s.finish .alter o := by
  simp only [alterBody, hh, ho]

theorem alterBody_forwarded (args : Quad Word) (s : State) (h : Handle) (hh : Handle.ofWord args.at0 = h)
    (c : BitVec 8) (target : Handle) (hr : s.record h.slot = .forwarded h.gen c target) :
    alterBody args s = s.finish .alter .notLive := by
  simp only [alterBody, hh, hr, namedCheck_forwarded_same]

/-- The cache an ALTER leaves: without the slot's entries, unless none of the first three flags is set
(R15). -/
def alteredCache (s : State) (w : Word) (n : Nat) : List CacheEntry :=
  if w.extractLsb' 28 3 = 0#3 then s.cache else withoutFinal s.cache n

theorem State.setRecord_alterCacheAction (s : State) (w : Word) (n : Nat) (r : Record) :
    (s.setRecord n r).alterCacheAction w n = s.rewritten n r (alteredCache s w n) := by
  rw [State.alterCacheAction, alteredCache]
  by_cases hz : w.extractLsb' 28 3 = 0#3
  · rw [if_neg (fun c => (alterRemoves_iff w).mp c hz), if_pos hz]
    rfl
  · rw [if_pos ((alterRemoves_iff w).mpr hz), if_neg hz]
    rfl

/-- The record an ALTER leaves: in the same state and at the same generation, with its object altered
(R15). -/
def Record.alteredBy (r : Record) (w : Word) : Record :=
  match r with
  | .live g o => .live g (altered w o)
  | .moving g o => .moving g (altered w o)
  | .free g => .free g
  | .forwarded g c target => .forwarded g c target
  | .worn => .worn

/-- ALTER of a LIVE or MOVING record of the handle's generation writes that record and completes DONE. -/
theorem alterBody_replaces (args : Quad Word) (s : State) (h : Handle) (hh : Handle.ofWord args.at0 = h)
    (o : Object) (hr : s.record h.slot = .live h.gen o ∨ s.record h.slot = .moving h.gen o) :
    alterBody args s = (s.rewritten h.slot ((s.record h.slot).alteredBy args.at1)
      (alteredCache s args.at1 h.slot)).finish .alter .done := by
  rcases hr with hr | hr
  · simp only [alterBody, hh, hr, namedCheck_live_same, alteredObject_eq,
      State.setRecord_alterCacheAction, Record.alteredBy]
  · simp only [alterBody, hh, hr, namedCheck_moving_same, alteredObject_eq,
      State.setRecord_alterCacheAction, Record.alteredBy]

/-- The access of ALTER on such a record, in the terms of the statements (R15). -/
theorem exec_alterAccess_replaces (s : State) (args : Quad Word) (h : Handle)
    (hs : ServesHandle s .alter args h) (o : Object)
    (hr : s.record h.slot = .live h.gen o ∨ s.record h.slot = .moving h.gen o) :
    exec .alterAccess s = .next (served (s.rewritten h.slot ((s.record h.slot).alteredBy args.at1)
      (alteredCache s args.at1 h.slot)) 0x08#8 .done 0#32 0#32 0#32) :=
  (exec_alterAccess_served s args hs.1).trans (congrArg _
    (alterBody_replaces args (s.grant .commandUnit) h (servesHandle_ofWord s .alter args h hs) o hr))

/-- Settles O19: the acceptance tests of R14, the refusals of the access, and the replacement of R15 for
LIVE and MOVING records alike. -/
theorem alterReplacesTheSelectedFields : Obligations.AlterReplacesTheSelectedFields := by
  constructor
  case left =>
    intro s hs
    refine ⟨naming_formTested .alter .alter (by decide) s hs, fun hm hn hw => ?_, fun hm hn hw => ?_⟩
    · rw [exec_alter_named s hs hm hn, if_neg fun c => hw ((alterArgumentsOk_iff _).mp c)]
    · rw [exec_alter_named s hs hm hn, if_pos ((alterArgumentsOk_iff _).mpr hw)]
  case right =>
    intro s args h hs
    have hh := servesHandle_ofWord s .alter args h hs
    have he := exec_alterAccess_served s args hs.1
    refine ⟨fun hw => ?worn, fun hst => ?stale, fun c target hf => ?forwarded, fun o ho => ?written⟩
    case worn => exact he.trans (congrArg _ (alterBody_refused _ _ h hh _ (namedCheck_worn _ _ hw)))
    case stale => exact he.trans (congrArg _ (alterBody_refused _ _ h hh _ (namedCheck_stale _ _ hst)))
    case forwarded => exact he.trans (congrArg _ (alterBody_forwarded _ _ h hh c target hf))
    case written =>
      obtain ⟨t, ht, hr, ha, hx⟩ := exists_served_rewritten (exec_alterAccess_replaces s args h hs o ho)
      refine ⟨t, ht, fun hl => ?_, fun hv => ?_, ha, hx⟩
      · rw [hr, hl, Record.alteredBy]
      · rw [hr, hv, Record.alteredBy]

/-! ### RESIZE (R16) -/

/-- RESIZE with a handle in ARG0 is judged by its new length alone. -/
theorem exec_resize_named (s : State) (hs : Accepting s) (hm : ¬ Malformed s.args.at0)
    (hn : ¬ Null s.args.at0) :
    exec .resize s = .next (if legalLength s.args.at1.toNat then accepted s .resize .single
      else completed s 0x09#8 .badArgument 0#32 0#32 0#32) := by
  simp only [exec, execResize, s.submit_accepting _ hs, handleArgument_ok _ hm hn,
    State.finish_eq_completed, State.begin_eq_accepted, Cmd.code]

/-- The access of RESIZE, when granted, is its body. -/
theorem exec_resizeAccess_served (s : State) (args : Quad Word) (hs : ServesSingle s .resize args) :
    exec .resizeAccess s = .next (resizeBody args (s.grant .commandUnit)) :=
  congrArg _ (s.commandAccess_served .resize args resizeBody hs)

/-- RESIZE refuses what the named-record check refuses. -/
theorem resizeBody_refused (args : Quad Word) (s : State) (h : Handle) (hh : Handle.ofWord args.at0 = h)
    (o : OutcomeCode) (ho : namedCheck h (s.record h.slot) = some o) :
    resizeBody args s = s.finish .resize o := by
  simp only [resizeBody, hh, ho]

theorem resizeBody_forwarded (args : Quad Word) (s : State) (h : Handle) (hh : Handle.ofWord args.at0 = h)
    (c : BitVec 8) (target : Handle) (hr : s.record h.slot = .forwarded h.gen c target) :
    resizeBody args s = s.finish .resize .notLive := by
  simp only [resizeBody, hh, hr, namedCheck_forwarded_same]

theorem resizeBody_moving (args : Quad Word) (s : State) (h : Handle) (hh : Handle.ofWord args.at0 = h)
    (o : Object) (hr : s.record h.slot = .moving h.gen o) :
    resizeBody args s = s.finish .resize .moving := by
  simp only [resizeBody, hh, hr, namedCheck_moving_same]

/-- A LIVE record is judged by its base and the new length (R6, R16). -/
theorem resizeBody_live (args : Quad Word) (s : State) (h : Handle) (hh : Handle.ofWord args.at0 = h)
    (o : Object) (hr : s.record h.slot = .live h.gen o) :
    resizeBody args s =
      if o.ext.base.toNat + args.at1.toNat ≤ 4294967296 then
        (s.rewritten h.slot (.live h.gen { o with ext := { o.ext with length := args.at1.toNat } })
            (withoutFinal s.cache h.slot)).complete
          0x09#8 .done ⟨BitVec.ofNat 32 o.ext.length, 0#32, 0#32⟩
      else s.finish .resize .badArgument := by
  simp only [resizeBody, hh, hr, namedCheck_live_same, extentFits_iff]
  rfl

/-- Settles O20: the acceptance tests, the refusals of the access in their order, and the new length of a
LIVE record whose extent still fits. -/
theorem resizeGivesANewLength : Obligations.ResizeGivesANewLength := by
  constructor
  case left =>
    intro s hs
    refine ⟨naming_formTested .resize .resize (by decide) s hs, fun hm hn => ⟨fun hl => ?_, fun hl => ?_⟩⟩
    · rw [exec_resize_named s hs hm hn, if_pos ((legalLength_iff _).mpr hl)]
    · rw [exec_resize_named s hs hm hn, if_neg fun c => hl ((legalLength_iff _).mp c)]
  case right =>
    intro s args h hs
    have hh := servesHandle_ofWord s .resize args h hs
    have he := exec_resizeAccess_served s args hs.1
    refine ⟨fun hw => ?worn, fun hst => ?stale, fun c target hf => ?forwarded, fun o hv => ?moving,
      fun o hl => ⟨fun hbig => ?tooLong, fun hfit => ?written⟩⟩
    case worn => exact he.trans (congrArg _ (resizeBody_refused _ _ h hh _ (namedCheck_worn _ _ hw)))
    case stale => exact he.trans (congrArg _ (resizeBody_refused _ _ h hh _ (namedCheck_stale _ _ hst)))
    case forwarded => exact he.trans (congrArg _ (resizeBody_forwarded _ _ h hh c target hf))
    case moving => exact he.trans (congrArg _ (resizeBody_moving _ _ h hh o hv))
    case tooLong =>
      have hb := (resizeBody_live args (s.grant .commandUnit) h hh o hl).trans (if_neg (by omega))
      exact he.trans (congrArg _ hb)
    case written =>
      have hb := (resizeBody_live args (s.grant .commandUnit) h hh o hl).trans (if_pos hfit)
      exact exists_served_rewritten (he.trans (congrArg _ hb))

/-! ### READ_RECORD (R17, R160, Table 9-6) -/

/-- READ_RECORD is judged by the slot number in ARG0 alone (R17). -/
theorem exec_readRecord_accepting (s : State) (hs : Accepting s) :
    exec .readRecord s = .next (if 1 ≤ s.args.at0.toNat ∧ s.args.at0.toNat ≤ 4095
      then accepted s .readRecord .single
      else completed s 0x0A#8 .badArgument 0#32 0#32 0#32) := by
  simp only [exec, execReadRecord, s.submit_accepting _ hs, State.finish_eq_completed,
    State.begin_eq_accepted, Cmd.code]

/-- The access of READ_RECORD answers DONE with the record's three words and changes nothing else. -/
theorem exec_readRecordAccess_served (s : State) (args : Quad Word)
    (hs : ServesSingle s .readRecord args) (r : Record) (hr : s.record args.at0.toNat = r) :
    exec .readRecordAccess s =
      .next (served s 0x0A#8 .done (recordRes0 r) (recordRes1 r) (recordRes2 r)) := by
  subst hr
  exact congrArg _ (s.commandAccess_served .readRecord args readRecordBody hs)

/-- The low byte of RES0 of READ_RECORD (the presence flags and the state code, Table 9-6), put together
first. -/
theorem append_flag_byte (x : BitVec 24) (forward cls extent : BitVec 1) (code : BitVec 3) (byte : BitVec 8)
    (h : 0#1 ++ forward ++ cls ++ extent ++ 0#1 ++ code = byte) :
    x ++ 0#1 ++ forward ++ cls ++ extent ++ 0#1 ++ code = x ++ byte := by
  subst h
  simp only [BitVec.append_assoc, BitVec.cast_eq]

/-- RES0 of a FREE record: its generation alone. -/
theorem recordRes0_free (g : BitVec 8) : recordRes0 (.free g) = 0#16 ++ g ++ 0x00#8 :=
  append_flag_byte (0#8 ++ 0#8 ++ g) 0#1 0#1 0#1 0#3 _ (by decide)

theorem recordRes0_live (g : BitVec 8) (o : Object) :
    recordRes0 (.live g o) = o.pins ++ o.cls ++ g ++ 0x31#8 :=
  append_flag_byte (o.pins ++ o.cls ++ g) 0#1 1#1 1#1 1#3 _ (by decide)

theorem recordRes0_moving (g : BitVec 8) (o : Object) :
    recordRes0 (.moving g o) = o.pins ++ o.cls ++ g ++ 0x32#8 :=
  append_flag_byte (o.pins ++ o.cls ++ g) 0#1 1#1 1#1 2#3 _ (by decide)

theorem recordRes0_forwarded (g c : BitVec 8) (target : Handle) :
    recordRes0 (.forwarded g c target) = 0#8 ++ c ++ g ++ 0x63#8 :=
  append_flag_byte (0#8 ++ c ++ g) 1#1 1#1 0#1 3#3 _ (by decide)

/-- RES0 of a WORN record: generation 255 (R9). -/
theorem recordRes0_worn : recordRes0 .worn = 0x0000FF04#32 := rfl

/-- Settles O21: the acceptance test, and the words of Table 9-6 for each of the five record states. -/
theorem readRecordReturnsTheRecord : Obligations.ReadRecordReturnsTheRecord := by
  constructor
  case left =>
    intro s hs
    refine ⟨fun hn => ?_, fun hn => ?_⟩
    · rw [exec_readRecord_accepting s hs, if_pos hn]
    · rw [exec_readRecord_accepting s hs, if_neg hn]
  case right =>
    intro s args hs
    have he := exec_readRecordAccess_served s args hs
    refine ⟨fun g hr => ?free, fun g o hr => ?live, fun g o hr => ?moving, fun g c target hr => ?forwarded,
      fun hr => ?worn⟩
    case free => rw [he _ hr, recordRes0_free]; rfl
    case live => rw [he _ hr, recordRes0_live]; rfl
    case moving => rw [he _ hr, recordRes0_moving]; rfl
    case forwarded => rw [he _ hr, recordRes0_forwarded]; rfl
    case worn => rw [he _ hr, recordRes0_worn]; rfl

end Sys2Proof.Machine

/-! ## Slot allocation and retirement: CREATE, RETIRE, CLEAR_DIRECTORY (chapter 2)

Each access is first given as an equation on its body; the settled statement then reads the answer of
the granted access off that equation. -/

namespace Sys2Proof.Machine

open Sys2Proof Sys2Proof.Safety

/-- An access that writes one record and completes, in the terms of the statements; `u` holds what it
changes beside that record and its completion. -/
theorem exists_served_put {s u : State} {n : Nat} {r : Record} {code : BitVec 8} {o : OutcomeCode}
    {r0 r1 r2 : Word} {x : Host.Outcome State Fault Refusal}
    (hx : x = .next (served { u with records := putRecord s.records n r } code o r0 r1 r2)) :
    ∃ t, x = .next t ∧ t.record n = r ∧ RecordsAgreeBut s t n
      ∧ t = served { u with records := t.records } code o r0 r1 r2 :=
  ⟨_, hx, record_put_same s _ n r rfl, recordsAgreeBut_put s _ n r rfl, rfl⟩

/-! ### CREATE (R24, R25) -/

/-- CREATE is judged by its arguments alone (R24). -/
theorem exec_create_accepting (s : State) (hs : Accepting s) :
    exec .create s = .next (if createArgumentsOk s.args then accepted s .create .single
      else completed s 0x01#8 .badArgument 0#32 0#32 0#32) := by
  simp only [exec, execCreate, s.submit_accepting _ hs, State.finish_eq_completed,
    State.begin_eq_accepted, Cmd.code]

/-- The access of CREATE, when granted, is its body. -/
theorem exec_createAccess_served (s : State) (args : Quad Word) (hs : ServesSingle s .create args) :
    exec .createAccess s = .next (createBody args (s.grant .commandUnit)) :=
  congrArg _ (s.commandAccess_served .create args createBody hs)

/-- R22: the removal that leaves `after` slots in the queue is the one at which FREE_LOW is raised. -/
theorem crossesFreeLow_iff (mark after : Nat) :
    crossesFreeLow mark (after + 1) = true ↔ 0 < mark ∧ mark ≤ after + 1 ∧ after < mark := by
  simp [crossesFreeLow, and_assoc]

/-- The event flags after a removal that leaves `after` slots in the queue (R22). -/
def State.freeLowJudged (s : State) (after : Nat) : BitVec 6 :=
  if 0 < s.config.freeLowMark ∧ s.config.freeLowMark ≤ after + 1 ∧ after < s.config.freeLowMark
  then s.events ||| 0b001000#6 else s.events

/-- The state in which the head slot `n` of the queue is in use for the object of `args`, the queue's rest
is `rest`, and FREE_LOW is judged (R25). -/
def State.allocated (s : State) (args : Quad Word) (n : Nat) (rest : List Nat) : State :=
  { s with
    records := putRecord s.records n (.live (s.record n).gen (objectOf args))
    freeQueue := rest
    events := s.freeLowJudged rest.length }

theorem createBody_noSlot (args : Quad Word) (s : State) (hq : s.freeQueue = []) :
    createBody args s = s.finish .create .noSlot := by
  simp only [createBody, hq]

/-- CREATE takes the head slot at the generation its record holds (R25). -/
theorem createBody_takesHead (args : Quad Word) (s : State) (n : Nat) (rest : List Nat)
    (hq : s.freeQueue = n :: rest) :
    createBody args s = (s.allocated args n rest).complete 0x01#8 .done
      ⟨handleWord ⟨n, (s.record n).gen⟩, BitVec.ofNat 32 rest.length, 0#32⟩ := by
  simp only [createBody, hq, List.length_cons, crossesFreeLow_iff, createdObject_eq, State.allocated,
    State.freeLowJudged]
  split <;> rfl

/-- Settles O15: the tests of R24, and the access of R25 on an empty and on a non-empty queue. -/
theorem createTakesTheHeadSlot : Obligations.CreateTakesTheHeadSlot := by
  constructor
  case left =>
    intro s hs
    refine ⟨fun ha => ?_, fun ha => ?_⟩
    · rw [exec_create_accepting s hs, if_pos ((createArgumentsOk_iff _).mpr ha)]
    · rw [exec_create_accepting s hs, if_neg fun c => ha ((createArgumentsOk_iff _).mp c)]
  case right =>
    intro s args hs
    have he := exec_createAccess_served s args hs
    refine ⟨fun hq => ?noSlot, fun n rest hq => ?taken⟩
    case noSlot => exact he.trans (congrArg _ (createBody_noSlot args _ hq))
    case taken =>
      have hb := createBody_takesHead args (s.grant .commandUnit) n rest hq
      exact exists_served_put (u := s.allocated args n rest) (he.trans (congrArg _ hb))

/-! ### RETIRE (R27, R28, R31) -/

/-- The access of RETIRE, when granted, is its body. -/
theorem exec_retireAccess_served (s : State) (args : Quad Word) (hs : ServesSingle s .retire args) :
    exec .retireAccess s = .next (retireBody args (s.grant .commandUnit)) :=
  congrArg _ (s.commandAccess_served .retire args retireBody hs)

/-- RETIRE refuses first what the named-record check refuses (R27). -/
theorem retireRefusal_namedCheck (h : Handle) (r : Record) (o : OutcomeCode) (ho : namedCheck h r = some o) :
    retireRefusal h r = some o := by
  simp only [retireRefusal, ho]

@[simp] theorem retireRefusal_moving_same (h : Handle) (o : Object) :
    retireRefusal h (.moving h.gen o) = some .moving := by
  simp only [retireRefusal, namedCheck_moving_same]

/-- A LIVE record of the handle's generation is refused for its pins alone. -/
@[simp] theorem retireRefusal_live_same (h : Handle) (o : Object) :
    retireRefusal h (.live h.gen o) = if o.pins = 0#8 then none else some .pinned := by
  simp only [retireRefusal, namedCheck_live_same]

@[simp] theorem retireRefusal_forwarded_same (h : Handle) (c : BitVec 8) (target : Handle) :
    retireRefusal h (.forwarded h.gen c target) = none := by
  simp only [retireRefusal, namedCheck_forwarded_same]

/-- A refused RETIRE completes with the refusal and changes no record. -/
theorem retireBody_refused (args : Quad Word) (s : State) (h : Handle) (hh : Handle.ofWord args.at0 = h)
    (o : OutcomeCode) (ho : retireRefusal h (s.record h.slot) = some o) :
    retireBody args s = s.finish .retire o := by
  simp only [retireBody, hh, ho]

/-- The access of RETIRE on a record it refuses, in the terms of the statements. -/
theorem exec_retireAccess_refused (s : State) (args : Quad Word) (h : Handle)
    (hs : ServesHandle s .retire args h) (o : OutcomeCode)
    (ho : retireRefusal h (s.record h.slot) = some o) :
    exec .retireAccess s = .next (served s 0x02#8 o 0#32 0#32 0#32) :=
  (exec_retireAccess_served s args hs.1).trans (congrArg _
    (retireBody_refused args (s.grant .commandUnit) h (servesHandle_ofWord s .retire args h hs) o ho))

/-- RES0 of RETIRE: the raised generation, or 255 for a record now WORN (R9, R31). -/
theorem spent_gen_toNat (g : BitVec 8) :
    (spent g).gen.toNat = if g = 255#8 then 255 else g.toNat + 1 := by
  by_cases hg : g = 255#8
  · rw [spent, if_pos hg, if_pos hg]
    rfl
  · rw [spent, if_neg hg, if_neg hg, Record.gen, toNat_succ_of_ne_last g hg]

/-- The state after the whole retire effect on the record `h` names: that record spent, and what R28
changes beside it. -/
def State.afterSpending (s : State) (h : Handle) : State :=
  { afterRetire s h.slot with records := putRecord s.records h.slot (spent h.gen) }

@[simp] theorem State.afterSpending_record (s : State) (h : Handle) :
    (s.afterSpending h).record h.slot = spent h.gen := record_put_same s _ h.slot _ rfl

/-- The retire effect on a record that RETIRE does not refuse, in the terms of R28. -/
theorem State.retire_eq_afterSpending (s : State) (h : Handle)
    (hn : retireRefusal h (s.record h.slot) = none) : s.retire h.slot = s.afterSpending h := by
  rw [State.afterSpending]
  rcases retireRefusal_none h _ hn with ⟨o, hr, -⟩ | ⟨c, target, hr⟩
  · rw [s.retire_eq h.slot (Or.inl ⟨_, o, hr⟩), hr, Record.gen]
  · rw [s.retire_eq h.slot (Or.inr ⟨_, c, target, hr⟩), hr, Record.gen]

/-- RETIRE of a record it does not refuse: the retire effect with the three results of R31. -/
theorem retireBody_retires (args : Quad Word) (s : State) (h : Handle) (hh : Handle.ofWord args.at0 = h)
    (hn : retireRefusal h (s.record h.slot) = none) :
    retireBody args s = (s.afterSpending h).complete 0x02#8 .done
      ⟨BitVec.ofNat 32 (if h.gen = 255#8 then 255 else h.gen.toNat + 1),
        BitVec.ofNat 32 (afterRetire s h.slot).freeQueue.length,
        BitVec.ofNat 32 (afterRetire s h.slot).wornCount⟩ := by
  simp only [retireBody, hh, hn, s.retire_eq_afterSpending h hn, State.afterSpending_record, spent_gen_toNat]
  rfl

/-- Settles O16: the refusals of R27 in their order, and the retire effect of R28 with the results of
R31. -/
theorem retireEndsTheUseOfASlot : Obligations.RetireEndsTheUseOfASlot := by
  intro s args h hs
  have refused := exec_retireAccess_refused s args h hs
  refine ⟨fun hw => ?worn, fun hst => ?stale, fun o hm => ?moving, fun o hl hp => ?pinned,
    fun hr => ?retired⟩
  case worn => exact refused _ (retireRefusal_namedCheck h _ _ (namedCheck_worn h _ hw))
  case stale => exact refused _ (retireRefusal_namedCheck h _ _ (namedCheck_stale h _ hst))
  case moving => exact refused _ (by rw [hm, retireRefusal_moving_same])
  case pinned => exact refused _ (by rw [hl, retireRefusal_live_same, if_neg hp])
  case retired =>
    have hn : retireRefusal h (s.record h.slot) = none := by
      rcases hr with ⟨o, hl, hp⟩ | ⟨c, target, hf⟩
      · rw [hl, retireRefusal_live_same, if_pos hp]
      · rw [hf, retireRefusal_forwarded_same]
    have hb := retireBody_retires args (s.grant .commandUnit) h (servesHandle_ofWord s .retire args h hs) hn
    exact exists_served_put (u := afterRetire s h.slot)
      ((exec_retireAccess_served s args hs.1).trans (congrArg _ hb))

/-! ### CLEAR_DIRECTORY (R35 to R37) -/

/-- CLEAR_DIRECTORY has no test at acceptance (R35). -/
theorem exec_clearDirectory_accepting (s : State) (hs : Accepting s) :
    exec .clearDirectory s = .next (accepted s .clearDirectory .single) :=
  congrArg _ (s.submit_accepting _ hs)

/-- The clear access, when granted, is its body. -/
theorem exec_clearAccess_served (s : State) (args : Quad Word)
    (hs : ServesSingle s .clearDirectory args) :
    exec .clearAccess s = .next (clearBody args (s.grant .commandUnit)) :=
  congrArg _ (s.commandAccess_served .clearDirectory args clearBody hs)

/-- The directory at its reset contents: every record, the queue, the Worn Count, the cache and the
epoch (R36, R37). -/
def State.directoryCleared (s : State) : State :=
  { s with records := [], freeQueue := List.range' 1 4095, wornCount := 0, cache := [], epoch := 0#16 }

/-- The clear access is judged by the preconditions of R35 alone. -/
theorem clearBody_eq (args : Quad Word) (s : State) :
    clearBody args s =
      if blockers s ≠ 0 then s.complete 0x05#8 .busy ⟨BitVec.ofNat 32 (blockers s), 0#32, 0#32⟩
      else s.directoryCleared.complete 0x05#8 .done
        ⟨BitVec.ofNat 32 s.wornCount, BitVec.ofNat 32 s.freeQueue.length, 0#32⟩ := by
  simp only [clearBody, clearBlockers_eq]
  rfl

/-- Settles O18: the acceptance without a test, the refusal BUSY, and the reset contents. -/
theorem clearGivesTheDirectoryItsResetContents :
    Obligations.ClearGivesTheDirectoryItsResetContents := by
  constructor
  case left => exact exec_clearDirectory_accepting
  case right =>
    intro s args hs
    have he := (exec_clearAccess_served s args hs).trans
      (congrArg _ (clearBody_eq args (s.grant .commandUnit)))
    refine ⟨fun hb => ?busy, fun hb => ?cleared⟩
    case busy => exact he.trans (congrArg _ (if_pos hb))
    case cleared => exact ⟨_, he.trans (congrArg _ (if_neg fun c => c hb)), fun n => recordIn_nil n, rfl⟩

end Sys2Proof.Machine

/-! ## The window's LOOKUP and the shortcut access (chapter 4)

LOOKUP is judged by `walkMalformed` of the request its arguments make. The shortcut access is the change
`applyShortcut` makes of the Record Store, told guard by guard, followed by what its walker then does. -/

namespace Sys2Proof.Machine

open Sys2Proof Sys2Proof.Safety

/-! ### LOOKUP at acceptance (R76) -/

theorem accessOfCode_undefined_iff (n : Nat) : accessOfCode n = .undefined ↔ 2 ≤ n := by
  match n with
  | 0 | 1 | n + 2 => simp [accessOfCode]

/-- A defined access code of two bits: READ at 0, WRITE at 1. -/
theorem accessOfCode_defined (b : BitVec 2) (h : b.toNat < 2) :
    accessOfCode b.toNat = if b = 0#2 then .read else .write := by
  rcases bitVec2_cases b with rfl | rfl | rfl | rfl
  · rfl
  · rfl
  · exact absurd h (by decide)
  · exact absurd h (by decide)

/-- The tests of R61 on the request of the window's LOOKUP, by its argument words. -/
theorem walkMalformed_lookupRequest_iff (args : Quad Word) :
    walkMalformed (lookupRequest args) = true ↔
      (Malformed args.at0 ∨ (args.at2.extractLsb' 0 9).toNat = 0 ∨ 256 < (args.at2.extractLsb' 0 9).toNat
        ∨ 2 ≤ (args.at2.extractLsb' 16 2).toNat ∨ 16777216 ≤ args.at1.toNat) := by
  rw [← accessOfCode_undefined_iff]
  exact walkMalformed_iff (lookupRequest args)

/-- R76: a request that passes the tests of R61 waits for the first access of its walk. -/
theorem exec_lookup_wellFormed (s : State) (hs : Accepting s)
    (hr : walkMalformed (lookupRequest s.args) ≠ true) :
    exec .lookup s = .next (accepted s .lookup (.walkOpening (lookupRequest s.args))) := by
  simp only [exec, execLookup, s.submit_accepting _ hs, if_neg hr, State.begin_eq_accepted]

/-- Settles O22: the refusal, and the request that a pass makes of the argument words. -/
theorem lookupTestsItsRequest : Obligations.LookupTestsItsRequest := by
  intro s hs
  refine ⟨fun hbad => ?malformed, fun hm ho hlo hhi ha => ?waits⟩
  case malformed =>
    exact exec_lookup_malformed s hs ((walkMalformed_lookupRequest_iff _).mpr (by tauto))
  case waits =>
    have hr : walkMalformed (lookupRequest s.args) ≠ true := by
      rw [Ne, walkMalformed_lookupRequest_iff]
      rintro (h | h)
      · exact hm h
      · omega
    rw [exec_lookup_wellFormed s hs hr, ← accessOfCode_defined _ ha]
    rfl

/-! ### The change a shortcut makes of the Record Store (R73) -/

/-- All four guards hold: a forwarder at the generation and with the target the walk read, and no forward
since the walk began. -/
theorem applyShortcut_guarded (c : Shortcut) (s : State) (cls : BitVec 8)
    (hr : s.record c.slot = .forwarded c.reading.gen cls c.reading.target) (he : s.epoch = c.snapshot) :
    applyShortcut c s = s.setRecord c.slot (.forwarded c.reading.gen cls c.final) := by
  simp only [applyShortcut, hr, he, and_self, if_true]

/-- One of the guards fails. -/
theorem applyShortcut_unguarded (c : Shortcut) (s : State)
    (h : s.epoch ≠ c.snapshot
      ∨ ∀ cls, s.record c.slot ≠ .forwarded c.reading.gen cls c.reading.target) :
    applyShortcut c s = s := by
  rw [applyShortcut]
  split
  case h_1 g cls target hr =>
    refine if_neg fun ⟨he, hg, ht⟩ => ?_
    rcases h with h | h
    · exact h he
    · exact h cls (by rw [hr, hg, ht])
  all_goals rfl

theorem applyShortcut_recordsAgreeBut (c : Shortcut) (s : State) :
    RecordsAgreeBut s (applyShortcut c s) c.slot := by
  intro n hn
  rcases applyShortcut_cases c s with h | ⟨g, k, target, -, h⟩
  · rw [h]
  · rw [h, State.record_setRecord_other s _ _ _ hn]

/-- The shortcut looks at the records and the epoch alone, and writes the Record Store alone, whichever
client is granted. -/
theorem applyShortcut_grant (c : Shortcut) (s : State) (client : Client) :
    applyShortcut c (s.grant client)
      = { s with records := (applyShortcut c s).records }.grant client := by
  by_cases h : s.epoch ≠ c.snapshot
    ∨ ∀ cls, s.record c.slot ≠ .forwarded c.reading.gen cls c.reading.target
  case pos => rw [applyShortcut_unguarded c s h, applyShortcut_unguarded c (s.grant client) h]
  case neg =>
    push Not at h
    obtain ⟨he, cls, hr⟩ := h
    rw [applyShortcut_guarded c s cls hr he, applyShortcut_guarded c (s.grant client) cls hr he]
    rfl

/-! ### The shortcut access of each walker -/

/-- R79: a walk engine settles, after the access granted to it, as the statements say it rests. -/
theorem State.settleEngine_grant (s : State) (e : EngineId) (next : Option Shortcut) :
    (s.grant (walkerClient (.engine e))).settleEngine e next = engineRests s e next := by
  cases next with
  | none => rw [State.settleEngine, State.testDrain_eq]; rfl
  | some c => rfl

/-- The window's LOOKUP completes at its shortcut access with the results it had decided (R77). -/
theorem exec_shortcutAccess_command (s : State) (c : Shortcut) (args : Quad Word) (x : WalkResult)
    (hg : s.granted = some .commandUnit) (hc : s.cmd = some ⟨.lookup, args, .walkShortcut c x⟩) :
    exec (.shortcutAccess .commandUnit) s =
      .next (served { s with records := (applyShortcut c s).records } 0x10#8 x.outcome x.address x.final
        (lookupWord x)) := by
  simp only [exec, execShortcutAccess, hc, s.access_granted _ _ hg, applyShortcut_grant]
  rfl

/-- A walk engine becomes IDLE at its shortcut access (R79). -/
theorem exec_shortcutAccess_engine (s : State) (c : Shortcut) (e : EngineId)
    (hg : s.granted = some (walkerClient (.engine e))) (he : s.engine e = .shortcut c) :
    exec (.shortcutAccess (.engine e)) s =
      .next (engineRests { s with records := (applyShortcut c s).records } e none) := by
  rw [walkerClient_engine] at hg
  simp only [exec, execShortcutAccess, he, s.access_granted _ _ hg, applyShortcut_grant]
  rw [← walkerClient_engine, State.settleEngine_grant]

/-- Whatever its walker, the shortcut access leaves the Record Store that `applyShortcut` makes; and beside
it only what the walker's completion or rest changes. -/
theorem exec_shortcutAccess (s : State) (w : Walker) (c : Shortcut)
    (hg : s.granted = some (walkerClient w))
    (hcommand : w = .commandUnit → ∃ args x, s.cmd = some ⟨.lookup, args, .walkShortcut c x⟩)
    (hengine : ∀ e, w = .engine e → s.engine e = .shortcut c) :
    ∃ t, exec (.shortcutAccess w) s = .next t ∧ t.records = (applyShortcut c s).records
      ∧ (∀ args x, w = .commandUnit → s.cmd = some ⟨.lookup, args, .walkShortcut c x⟩ →
          t = served { s with records := t.records } 0x10#8 x.outcome x.address x.final (lookupWord x))
      ∧ ∀ e, w = .engine e → t = engineRests { s with records := t.records } e none := by
  cases w with
  | commandUnit =>
    obtain ⟨args, x, hc⟩ := hcommand rfl
    refine ⟨_, exec_shortcutAccess_command s c args x hg hc, rfl, fun args' x' _ hc' => ?_,
      by rintro _ ⟨⟩⟩
    cases hc.symm.trans hc'
    rfl
  | engine e =>
    have hrec (s : State) : (engineRests s e none).records = s.records := by
      rw [← State.settleEngine_grant, State.settleEngine_records, State.grant_records]
    refine ⟨_, exec_shortcutAccess_engine s c e hg (hengine e rfl), hrec _, by rintro _ _ ⟨⟩, ?_⟩
    rintro _ ⟨⟩
    rw [hrec]

/-- Settles O28: the Record Store by the guards of R73, and the walker's completion or rest. -/
theorem shortcutRewritesTheOrigin : Obligations.ShortcutRewritesTheOrigin := by
  intro s w c hg hw
  obtain ⟨t, ht, hrecords, hcommand, hengine⟩ := exec_shortcutAccess s w c hg
    (by rintro rfl; exact hw) (by rintro e rfl; exact hw)
  have hrec (n : Nat) : t.record n = (applyShortcut c s).record n := by
    rw [State.record_eq, hrecords, State.record_eq]
  refine ⟨t, ht, fun n hn => ?others, fun cls hr he => ?guarded, fun h => ?unguarded, hcommand, hengine⟩
  case others => rw [hrec, applyShortcut_recordsAgreeBut c s n hn]
  case guarded => rw [hrec, applyShortcut_guarded c s cls hr he, State.record_setRecord_same]
  case unguarded => rw [hrec, applyShortcut_unguarded c s h]

end Sys2Proof.Machine

/-! ## FORWARD (chapter 5)

Acceptance is judged by the two argument words. Each of the three kinds of access is first given as its
body; `checkStep` and `forwardable`, which judge the record the body reads, are told record by record. -/

namespace Sys2Proof.Machine

open Sys2Proof Sys2Proof.Safety

/-! ### Acceptance (R86) -/

/-- FORWARD of two words that spell handles is judged by their slots alone, with the results of R91. -/
theorem exec_forward_spelled (s : State) (hs : Accepting s) (source target : Handle)
    (hsrc : Spells s.args.at0 source) (htgt : Spells s.args.at1 target) :
    exec .forward s = .next (if target.slot = source.slot
      then completed s 0x11#8 .cycle s.args.at1 1#32 0#32
      else accepted s .forward (.fromCheck source target)) := by
  obtain ⟨hm, hn, rfl⟩ := hsrc
  simp only [exec, execForward, s.submit_accepting _ hs, handleArgument_ok _ hm hn,
    (handleForm_named_iff _ _).mpr htgt, State.begin_eq_accepted]
  rfl

/-- Settles O31: the form test of `from`, then that of `to`, then the two slots. -/
theorem forwardTestsItsArguments : Obligations.ForwardTestsItsArguments := by
  intro s hs
  refine ⟨naming_formTested .forward .forward (by decide) s hs, fun source hsrc =>
    ⟨fun ht => ?noTarget, fun target htgt => ⟨fun heq => ?sameSlot, fun hne => ?waits⟩⟩⟩
  case noTarget => exact exec_forward_target_refused s hs hsrc.1 hsrc.2.1 ht
  case sameSlot => rw [exec_forward_spelled s hs source target hsrc htgt, if_pos heq]
  case waits => rw [exec_forward_spelled s hs source target hsrc htgt, if_neg hne]

/-! ### The from access (R88) -/

/-- The from access, when granted, is its body. -/
theorem exec_fromAccess_served (s : State) (args : Quad Word) (source target : Handle)
    (hs : ServesPhase s .forward args (.fromCheck source target)) :
    exec .fromAccess s = .next (fromBody ⟨.forward, args, .fromCheck source target⟩ source target
      (s.grant .commandUnit)) := by
  obtain ⟨hc, hg⟩ := hs
  simp only [exec, execFromAccess, hc, s.access_granted _ _ hg]

/-- The from access on a `from` that RETIRE would refuse. -/
theorem fromBody_refused (c : Command) (source target : Handle) (s : State) (o : OutcomeCode)
    (ho : retireRefusal source (s.record source.slot) = some o) :
    fromBody c source target s = s.finish .forward o := by
  simp only [fromBody, ho]

/-- The from access on any other `from` takes the snapshot and begins the check walk at `to`. -/
theorem fromBody_passes (c : Command) (source target : Handle) (s : State)
    (hn : retireRefusal source (s.record source.slot) = none) :
    fromBody c source target s =
      { s with cmd := some { c with phase := .checkWalk source target s.epoch target 1 } } := by
  simp only [fromBody, hn]

/-- Settles O32: the refusals of RETIRE in their order, and the snapshot on a pass. -/
theorem fromAccessChecksTheSource : Obligations.FromAccessChecksTheSource := by
  intro s args source target hs
  have he := exec_fromAccess_served s args source target hs
  have refused (o : OutcomeCode) (ho : retireRefusal source (s.record source.slot) = some o) :
      exec .fromAccess s = .next (served s 0x11#8 o 0#32 0#32 0#32) :=
    he.trans (congrArg _ (fromBody_refused _ source target (s.grant .commandUnit) o ho))
  refine ⟨fun hw => ?worn, fun hst => ?stale, fun o hm => ?moving, fun o hl hp => ?pinned,
    fun hr => ?passes⟩
  case worn => exact refused _ (retireRefusal_namedCheck source _ _ (namedCheck_worn source _ hw))
  case stale => exact refused _ (retireRefusal_namedCheck source _ _ (namedCheck_stale source _ hst))
  case moving => exact refused _ (by rw [hm, retireRefusal_moving_same])
  case pinned => exact refused _ (by rw [hl, retireRefusal_live_same, if_neg hp])
  case passes =>
    have hn : retireRefusal source (s.record source.slot) = none := by
      rcases hr with ⟨o, hl, hp⟩ | ⟨c, old, hf⟩
      · rw [hl, retireRefusal_live_same, if_pos hp]
      · rw [hf, retireRefusal_forwarded_same]
    exact he.trans (congrArg _ (fromBody_passes _ source target (s.grant .commandUnit) hn))

/-! ### The check walk (R89) -/

/-- An access of the check walk, when granted, is its body. -/
theorem exec_checkWalkAccess_served (s : State) (args : Quad Word) (source target h : Handle)
    (snapshot : BitVec 16) (k : Nat)
    (hs : ServesPhase s .forward args (.checkWalk source target snapshot h k)) :
    exec .checkWalkAccess s = .next (checkBody ⟨.forward, args, .checkWalk source target snapshot h k⟩
      source target snapshot h k (s.grant .commandUnit)) := by
  obtain ⟨hc, hg⟩ := hs
  simp only [exec, execCheckWalkAccess, hc, s.access_granted _ _ hg]

/-- The check walk ends at a refusal, which reports the current handle and the hop count (R91). -/
theorem checkBody_refuse (c : Command) (source target h : Handle) (snapshot : BitVec 16) (k : Nat)
    (s : State) (o : OutcomeCode) (hd : checkStep source h k (s.record h.slot) = .refuse o) :
    checkBody c source target snapshot h k s =
      s.complete 0x11#8 o ⟨handleWord h, BitVec.ofNat 32 k, 0#32⟩ := by
  simp only [checkBody, hd]
  rfl

/-- A hop takes the check walk to the forwarder's target, one hop further (R89 check 5). -/
theorem checkBody_hop (c : Command) (source target h : Handle) (snapshot : BitVec 16) (k : Nat)
    (s : State) (onward : Handle) (hd : checkStep source h k (s.record h.slot) = .hop onward) :
    checkBody c source target snapshot h k s =
      { s with cmd := some { c with phase := .checkWalk source target snapshot onward (k + 1) } } := by
  simp only [checkBody, hd]

/-- A pass leaves the final access to make, with the final handle and its hop count (R89 check 6). -/
theorem checkBody_pass (c : Command) (source target h : Handle) (snapshot : BitVec 16) (k : Nat)
    (s : State) (hd : checkStep source h k (s.record h.slot) = .pass) :
    checkBody c source target snapshot h k s =
      { s with cmd := some { c with phase := .final source target snapshot h k } } := by
  simp only [checkBody, hd]

/-- R4: a record that is neither WORN nor STALE passes the named-record check. -/
theorem namedCheck_of_not_stale (h : Handle) (r : Record) (hw : r ≠ .worn) (hst : ¬ Stale h r) :
    namedCheck h r = none := by
  have hfree : r ≠ .free r.gen := fun c => hst ⟨hw, Or.inl c⟩
  have hgen : r.gen = h.gen := by_contra fun c => hst ⟨hw, Or.inr c⟩
  cases r with
  | worn => exact absurd rfl hw
  | free g => exact absurd rfl hfree
  | live g o => exact if_pos hgen
  | moving g o => exact if_pos hgen
  | forwarded g c target => exact if_pos hgen

theorem checkStep_stale (source h : Handle) (k : Nat) (r : Record) (hst : Stale h r) :
    checkStep source h k r = .refuse .dangling := by
  obtain ⟨hw, hst⟩ := hst
  cases r with
  | worn => exact absurd rfl hw
  | free g => rfl
  | live g o => exact if_pos (hst.resolve_left Record.noConfusion)
  | moving g o => exact if_pos (hst.resolve_left Record.noConfusion)
  | forwarded g c target => exact if_pos (hst.resolve_left Record.noConfusion)

/-- Where the check walk goes from a record it does not refuse for its state, generation or slot (R89
checks 4 to 6). -/
def onwardStep (k : Nat) (r : Record) : CheckStep :=
  match r with
  | .forwarded _ _ onward => if k < 15 then .hop onward else .refuse .deep
  | _ => .pass

/-- R89 check 3: a record the current handle names is judged next against `from`. -/
theorem checkStep_named (source h : Handle) (k : Nat) (r : Record) (hn : namedCheck h r = none) :
    checkStep source h k r =
      if h.slot = source.slot ∧ r.gen = source.gen then .refuse .cycle else onwardStep k r := by
  rcases namedCheck_none h r hn with ⟨o, rfl⟩ | ⟨o, rfl⟩ | ⟨c, onward, rfl⟩ <;>
    exact if_neg fun hne => hne rfl

/-- R89 check 6: from a LIVE or MOVING record the check walk passes on to the final access. -/
theorem onwardStep_object (k : Nat) (r : Record) (ho : r.object ≠ none) : onwardStep k r = .pass := by
  cases r with
  | forwarded g c onward => exact absurd rfl ho
  | _ => rfl

/-- Settles O33: the six checks of R89 in their order. -/
theorem checkWalkFollowsTheChain : Obligations.CheckWalkFollowsTheChain := by
  intro s args source target h snapshot k hs _
  have he := exec_checkWalkAccess_served s args source target h snapshot k hs
  have refused (o : OutcomeCode) (hd : checkStep source h k (s.record h.slot) = .refuse o) :
      exec .checkWalkAccess s = .next (served s 0x11#8 o (handleWord h) (BitVec.ofNat 32 k) 0#32) :=
    he.trans (congrArg _
      (checkBody_refuse _ source target h snapshot k (s.grant .commandUnit) o hd))
  refine ⟨fun hw => ?worn, fun hst => ?dangling, fun hw hst => ?named⟩
  case worn => exact refused .worn (by rw [hw, checkStep])
  case dangling => exact refused .dangling (checkStep_stale source h k _ hst)
  case named =>
    have hstep := checkStep_named source h k _ (namedCheck_of_not_stale h _ hw hst)
    refine ⟨fun hslot hgen => ?cycle, fun hother => ?onward⟩
    case cycle => exact refused .cycle (hstep.trans (if_pos ⟨hslot, hgen⟩))
    case onward =>
      rw [if_neg hother] at hstep
      refine ⟨fun g c onward hf => ⟨fun hk => ?deep, fun hk => ?hop⟩, fun ho => ?pass⟩
      case deep =>
        subst hk
        exact refused .deep (by rw [hstep, hf, onwardStep, if_neg (lt_irrefl 15)])
      case hop =>
        have hd : checkStep source h k (s.record h.slot) = .hop onward := by
          rw [hstep, hf, onwardStep, if_pos hk]
        exact he.trans (congrArg _
          (checkBody_hop _ source target h snapshot k (s.grant .commandUnit) onward hd))
      case pass =>
        have hd := hstep.trans (onwardStep_object k _ ho)
        exact he.trans (congrArg _
          (checkBody_pass _ source target h snapshot k (s.grant .commandUnit) hd))

/-! ### The final access (R92, R93) -/

/-- The final access, when granted, is its body. -/
theorem exec_forwardFinalAccess_served (s : State) (args : Quad Word) (source target h : Handle)
    (snapshot : BitVec 16) (k : Nat)
    (hs : ServesPhase s .forward args (.final source target snapshot h k)) :
    exec .forwardFinalAccess s =
      .next (finalBody source target snapshot h k (s.grant .commandUnit)) := by
  obtain ⟨hc, hg⟩ := hs
  simp only [exec, execForwardFinalAccess, hc, s.access_granted _ _ hg]

/-- R92: the records that FORWARD may make a forwarder, with the class it keeps. -/
theorem forwardable_eq_some_iff (source : Handle) (r : Record) (cls : BitVec 8) :
    forwardable source r = some cls ↔
      (∃ o, r = .live source.gen o ∧ o.pins = 0#8 ∧ o.cls = cls)
        ∨ ∃ old, r = .forwarded source.gen cls old := by
  refine ⟨forwardable_some source r cls, ?_⟩
  rintro (⟨o, rfl, hp, rfl⟩ | ⟨old, rfl⟩)
  · exact if_pos ⟨rfl, hp⟩
  · exact if_pos rfl

/-- R92: every other record fails the guards. -/
theorem forwardable_eq_none (source : Handle) (r : Record)
    (h : r.gen ≠ source.gen
      ∨ ¬ ((∃ g o, r = .live g o ∧ o.pins = 0#8) ∨ ∃ g c old, r = .forwarded g c old)) :
    forwardable source r = none := by
  rw [Option.eq_none_iff_forall_ne_some]
  intro cls hf
  rcases (forwardable_eq_some_iff source r cls).mp hf with ⟨o, rfl, hp, -⟩ | ⟨old, rfl⟩
  · exact h.elim (fun hg => hg rfl) fun hn => hn (Or.inl ⟨_, o, rfl, hp⟩)
  · exact h.elim (fun hg => hg rfl) fun hn => hn (Or.inr ⟨_, cls, old, rfl⟩)

theorem finalBody_contended (source target h : Handle) (snapshot : BitVec 16) (k : Nat) (s : State)
    (hc : s.epoch ≠ snapshot ∨ forwardable source (s.record source.slot) = none) :
    finalBody source target snapshot h k s = s.finish .forward .contended := by
  cases hf : forwardable source (s.record source.slot) with
  | none => simp only [finalBody, hf]
  | some cls =>
    have he : s.epoch ≠ snapshot := hc.resolve_right (by simp [hf])
    simp only [finalBody, hf, if_pos he]

/-- R53, R93: the increment of the epoch empties the cache, whatever was removed from it before. -/
theorem State.bumpEpoch_forwardCacheAction (s : State) (n : Nat) (r : Record) :
    (s.forwardCacheAction n r).bumpEpoch = s.bumpEpoch := by
  cases r <;> rfl

/-- The epoch as a result word: in bits 15:0, with zeros above. -/
theorem wordOf_toNat_epoch (e : BitVec 16) : wordOf e.toNat = 0#16 ++ e := by
  rw [wordOf, BitVec.ofNat_toNat]
  exact BitVec.setWidth_eq_append (by decide)

/-- R93: the write of the forwarder, with the final handle, the hop count and the new epoch as results. -/
theorem finalBody_forwards (source target h : Handle) (snapshot : BitVec 16) (k : Nat) (s : State)
    (cls : BitVec 8) (hf : forwardable source (s.record source.slot) = some cls)
    (he : s.epoch = snapshot) :
    finalBody source target snapshot h k s =
      ((s.setRecord source.slot (.forwarded source.gen cls target)).bumpEpoch).complete 0x11#8 .done
        ⟨handleWord h, BitVec.ofNat 32 k, 0#16 ++ (s.epoch + 1#16)⟩ := by
  simp only [finalBody, hf, if_neg (not_not.mpr he), State.bumpEpoch_forwardCacheAction,
    wordOf_toNat_epoch]
  rfl

/-- Settles O34: CONTENDED when a guard of R92 fails, and otherwise the write of R93. -/
theorem forwardFinalAccessWritesOrIsContended :
    Obligations.ForwardFinalAccessWritesOrIsContended := by
  intro s args source target h snapshot k hs
  have hx := exec_forwardFinalAccess_served s args source target h snapshot k hs
  refine ⟨fun hc => ?contended, fun cls he hr => ?forwarded⟩
  case contended =>
    exact hx.trans (congrArg _ (finalBody_contended source target h snapshot k (s.grant .commandUnit)
      (hc.imp_right (forwardable_eq_none source _))))
  case forwarded =>
    have hb := finalBody_forwards source target h snapshot k (s.grant .commandUnit) cls
      ((forwardable_eq_some_iff source _ cls).mpr hr) he
    exact exists_served_put (u := { s with cache := [], epoch := s.epoch + 1#16 })
      (hx.trans (congrArg _ hb))

end Sys2Proof.Machine

/-! ## Relocation: MOVE_BEGIN, MOVE_COMMIT, MOVE_ABORT (chapter 6)

What `moveBeginEntry` answers is told check by check, what `moveOf` finds by whether an entry names the
slot. The bodies of the accesses are then equations, one a row of R106 and of R112. -/

namespace Sys2Proof.Machine

open Sys2Proof Sys2Proof.Safety

/-! ### Acceptance of MOVE_BEGIN (R105) -/

/-- MOVE_BEGIN with a handle in ARG0 is judged by the alignment of its new base alone. -/
theorem exec_moveBegin_named (s : State) (hs : Accepting s) (hm : ¬ Malformed s.args.at0)
    (hn : ¬ Null s.args.at0) :
    exec .moveBegin s = .next (if aligned16 s.args.at1 then accepted s .moveBegin .single
      else completed s 0x18#8 .badArgument 0#32 0#32 0#32) := by
  simp only [exec, execMoveBegin, s.submit_accepting _ hs, handleArgument_ok _ hm hn,
    State.finish_eq_completed, State.begin_eq_accepted, Cmd.code]

/-! ### The entry a MOVE_BEGIN takes (R106 from check 6 on, R107) -/

/-- R106 check 6: the new extent does not fit. -/
theorem moveBeginEntry_tooHigh (s : State) (n : Nat) (b : Word) (o : Object)
    (hbig : 4294967296 < b.toNat + o.ext.length) : moveBeginEntry s n b o = .error .badArgument := by
  have hf : extentFits b o.ext.length = false :=
    Bool.eq_false_iff.mpr fun c => absurd ((extentFits_iff _ _).mp c) (by omega)
  rw [moveBeginEntry, if_pos hf]

/-- An extent that fits is judged by the Move Table alone. -/
theorem moveBeginEntry_fits (s : State) (n : Nat) (b : Word) (o : Object)
    (hfit : b.toNat + o.ext.length ≤ 4294967296) :
    moveBeginEntry s n b o = if (s.moves.find (fun e => e.lapsedOn n)).isSome then .error .lapsed
      else (s.moves.find MoveEntry.isIdle).elim (.error .moveTableFull) .ok := by
  rw [moveBeginEntry, (extentFits_iff _ _).mpr hfit, if_neg Bool.noConfusion]
  cases s.moves.find MoveEntry.isIdle <;> rfl

/-- The search for an entry LAPSED on a slot succeeds exactly when there is one. -/
theorem find_lapsedOn_isSome_iff (q : Quad MoveEntry) (n : Nat) :
    (q.find (fun e => e.lapsedOn n)).isSome = true ↔ ∃ i, q.get i = .lapsed n := by
  rw [← Option.ne_none_iff_isSome, Ne, Quad.find_eq_none]
  simp [MoveEntry.lapsedOn]

/-- R106 check 7: an entry is LAPSED on the slot. -/
theorem moveBeginEntry_lapsed (s : State) (n : Nat) (b : Word) (o : Object)
    (hfit : b.toNat + o.ext.length ≤ 4294967296) (hl : ∃ i, s.moves.get i = .lapsed n) :
    moveBeginEntry s n b o = .error .lapsed := by
  rw [moveBeginEntry_fits s n b o hfit, if_pos ((find_lapsedOn_isSome_iff _ n).mpr hl)]

/-- With no entry LAPSED on the slot, the search for an IDLE entry decides. -/
theorem moveBeginEntry_unlapsed (s : State) (n : Nat) (b : Word) (o : Object)
    (hfit : b.toNat + o.ext.length ≤ 4294967296) (hl : ∀ i, s.moves.get i ≠ .lapsed n) :
    moveBeginEntry s n b o = (s.moves.find MoveEntry.isIdle).elim (.error .moveTableFull) .ok := by
  have hnone := (find_lapsedOn_isSome_iff s.moves n).not.mpr fun ⟨i, hi⟩ => hl i hi
  rw [moveBeginEntry_fits s n b o hfit, if_neg hnone]

theorem MoveEntry.isIdle_iff (e : MoveEntry) : e.isIdle = true ↔ e = .idle := beq_iff_eq

theorem MoveEntry.isIdle_eq_false_iff (e : MoveEntry) : e.isIdle = false ↔ e ≠ .idle :=
  beq_eq_false_iff_ne

/-- R106 check 8: no entry is IDLE. -/
theorem moveBeginEntry_full (s : State) (n : Nat) (b : Word) (o : Object)
    (hfit : b.toNat + o.ext.length ≤ 4294967296) (hl : ∀ i, s.moves.get i ≠ .lapsed n)
    (hfull : ∀ i, s.moves.get i ≠ .idle) : moveBeginEntry s n b o = .error .moveTableFull := by
  have hnone : s.moves.find MoveEntry.isIdle = none :=
    (Quad.find_eq_none _ _).mpr fun i => (MoveEntry.isIdle_eq_false_iff _).mpr (hfull i)
  rw [moveBeginEntry_unlapsed s n b o hfit hl, hnone, Option.elim_none]

/-- R107: the lowest-numbered IDLE entry is the one taken. -/
theorem moveBeginEntry_lowest (s : State) (n : Nat) (b : Word) (o : Object)
    (hfit : b.toNat + o.ext.length ≤ 4294967296) (hl : ∀ i, s.moves.get i ≠ .lapsed n)
    (i : Fin 4) (hi : s.moves.get i = .idle) (hlow : ∀ j, j < i → s.moves.get j ≠ .idle) :
    moveBeginEntry s n b o = .ok i := by
  have hsome : s.moves.find MoveEntry.isIdle = some i :=
    (Quad.find_eq_some _ _ _).mpr ⟨(MoveEntry.isIdle_iff _).mpr hi,
      fun j hj => (MoveEntry.isIdle_eq_false_iff _).mpr (hlow j hj)⟩
  rw [moveBeginEntry_unlapsed s n b o hfit hl, hsome, Option.elim_some]

/-! ### The access of MOVE_BEGIN (R106, R107) -/

/-- The access of MOVE_BEGIN, when granted, is its body. -/
theorem exec_moveBeginAccess_served (s : State) (args : Quad Word)
    (hs : ServesSingle s .moveBegin args) :
    exec .moveBeginAccess s = .next (moveBeginBody args (s.grant .commandUnit)) :=
  congrArg _ (s.commandAccess_served .moveBegin args moveBeginBody hs)

/-- MOVE_BEGIN refuses what the named-record check refuses. -/
theorem moveBeginBody_refused (args : Quad Word) (s : State) (h : Handle)
    (hh : Handle.ofWord args.at0 = h) (o : OutcomeCode) (ho : namedCheck h (s.record h.slot) = some o) :
    moveBeginBody args s = s.finish .moveBegin o := by
  simp only [moveBeginBody, hh, ho]

theorem moveBeginBody_moving (args : Quad Word) (s : State) (h : Handle)
    (hh : Handle.ofWord args.at0 = h) (o : Object) (hr : s.record h.slot = .moving h.gen o) :
    moveBeginBody args s = s.finish .moveBegin .moving := by
  simp only [moveBeginBody, hh, hr, namedCheck_moving_same]

theorem moveBeginBody_forwarded (args : Quad Word) (s : State) (h : Handle)
    (hh : Handle.ofWord args.at0 = h) (c : BitVec 8) (target : Handle)
    (hr : s.record h.slot = .forwarded h.gen c target) :
    moveBeginBody args s = s.finish .moveBegin .notLive := by
  simp only [moveBeginBody, hh, hr, namedCheck_forwarded_same]

theorem moveBeginBody_pinned (args : Quad Word) (s : State) (h : Handle)
    (hh : Handle.ofWord args.at0 = h) (o : Object) (hr : s.record h.slot = .live h.gen o)
    (hp : o.pins ≠ 0#8) : moveBeginBody args s = s.finish .moveBegin .pinned := by
  simp only [moveBeginBody, hh, hr, namedCheck_live_same, if_pos hp]

/-- An unpinned LIVE record for which no entry may be taken. -/
theorem moveBeginBody_noEntry (args : Quad Word) (s : State) (h : Handle)
    (hh : Handle.ofWord args.at0 = h) (o : Object) (hr : s.record h.slot = .live h.gen o)
    (hp : o.pins = 0#8) (out : OutcomeCode) (he : moveBeginEntry s h.slot args.at1 o = .error out) :
    moveBeginBody args s = s.finish .moveBegin out := by
  simp only [moveBeginBody, hh, hr, namedCheck_live_same, if_neg (not_not.mpr hp), he]

/-- An unpinned LIVE record for which an entry may be taken: the move opens there (R107). -/
theorem moveBeginBody_opens (args : Quad Word) (s : State) (h : Handle)
    (hh : Handle.ofWord args.at0 = h) (o : Object) (hr : s.record h.slot = .live h.gen o)
    (hp : o.pins = 0#8) (i : Fin 4) (he : moveBeginEntry s h.slot args.at1 o = .ok i) :
    moveBeginBody args s = (s.openMove h o i args.at1).complete 0x18#8 .done
      ⟨o.ext.base, BitVec.ofNat 32 o.ext.length, BitVec.ofNat 32 s.config.moveWindow⟩ := by
  simp only [moveBeginBody, hh, hr, namedCheck_live_same, if_neg (not_not.mpr hp), he]
  rfl

/-- Settles O35: the tests of R105, the eight checks of R106 in their order, and the opening of R107. -/
theorem moveBeginOpensAMove : Obligations.MoveBeginOpensAMove := by
  constructor
  case left =>
    intro s hs
    refine ⟨naming_formTested .moveBegin .moveBegin (by decide) s hs,
      fun hm hn => ⟨fun ha => ?_, fun ha => ?_⟩⟩
    · rw [exec_moveBegin_named s hs hm hn, if_neg fun c => ha ((aligned16_iff _).mp c)]
    · rw [exec_moveBegin_named s hs hm hn, if_pos ((aligned16_iff _).mpr ha)]
  case right =>
    intro s args h hs
    have hh := servesHandle_ofWord s .moveBegin args h hs
    have he := exec_moveBeginAccess_served s args hs.1
    refine ⟨fun hw => ?worn, fun hst => ?stale, fun o hv => ?moving, fun c target hf => ?forwarded,
      fun o hl => ?live⟩
    case worn => exact he.trans (congrArg _ (moveBeginBody_refused _ _ h hh _ (namedCheck_worn _ _ hw)))
    case stale =>
      exact he.trans (congrArg _ (moveBeginBody_refused _ _ h hh _ (namedCheck_stale _ _ hst)))
    case moving => exact he.trans (congrArg _ (moveBeginBody_moving _ _ h hh o hv))
    case forwarded => exact he.trans (congrArg _ (moveBeginBody_forwarded _ _ h hh c target hf))
    case live =>
      have noEntry (hp : o.pins = 0#8) (out : OutcomeCode)
          (ho : moveBeginEntry (s.grant .commandUnit) h.slot args.at1 o = .error out) :
          exec .moveBeginAccess s = .next (served s 0x18#8 out 0#32 0#32 0#32) :=
        he.trans (congrArg _
          (moveBeginBody_noEntry args (s.grant .commandUnit) h hh o hl hp out ho))
      refine ⟨fun hp => ?pinned, fun hp hbig => ?tooHigh, fun hp hfit hlap => ?lapsed,
        fun hp hfit hun => ⟨fun hfull => ?full, fun i hi hlow => ?opened⟩⟩
      case pinned => exact he.trans (congrArg _ (moveBeginBody_pinned _ _ h hh o hl hp))
      case tooHigh => exact noEntry hp _ (moveBeginEntry_tooHigh _ _ _ _ hbig)
      case lapsed => exact noEntry hp _ (moveBeginEntry_lapsed _ _ _ _ hfit hlap)
      case full => exact noEntry hp _ (moveBeginEntry_full _ _ _ _ hfit hun hfull)
      case opened =>
        have hb := moveBeginBody_opens args (s.grant .commandUnit) h hh o hl hp i
          (moveBeginEntry_lowest _ _ _ _ hfit hun i hi hlow)
        exact exists_served_put
          (u := { s with
            moves := s.moves.set i (.copying h.slot args.at1 s.config.moveWindow)
            cache := withoutFinal s.cache h.slot })
          (he.trans (congrArg _ hb))

/-! ### The accesses of MOVE_COMMIT and MOVE_ABORT (R112 to R114) -/

/-- The base at which a move ends: the new one by MOVE_COMMIT (R113), the old one by MOVE_ABORT (R114). -/
def endBase (commit : Bool) (oldBase newBase : Word) : Word := if commit then newBase else oldBase

/-- Either access, when granted, is the one body of R112 with its own base. -/
theorem exec_endAccess_served (s : State) (args : Quad Word) (commit : Bool) (i : Instr) (k : Cmd)
    (c : BitVec 8)
    (hi : (commit = true ∧ i = .moveCommitAccess ∧ k = .moveCommit ∧ c = 0x19#8)
      ∨ (commit = false ∧ i = .moveAbortAccess ∧ k = .moveAbort ∧ c = 0x1A#8))
    (hs : ServesSingle s k args) :
    k.code = c ∧ exec i s = .next (endMoveBody k (endBase commit) args (s.grant .commandUnit)) := by
  rcases hi with ⟨rfl, rfl, rfl, rfl⟩ | ⟨rfl, rfl, rfl, rfl⟩
  · exact ⟨rfl, congrArg _ (s.commandAccess_served .moveCommit args _ hs)⟩
  · exact ⟨rfl, congrArg _ (s.commandAccess_served .moveAbort args _ hs)⟩

/-- Cases 2 and 3 of R112: without a move, the named-record check refuses first. -/
theorem noMoveOutcome_refused (h : Handle) (r : Record) (o : OutcomeCode) (ho : namedCheck h r = some o) :
    noMoveOutcome h r = o := by
  simp only [noMoveOutcome, ho]

/-- Case 4 of R112: a record that passes the check is not moving. -/
theorem noMoveOutcome_named (h : Handle) (r : Record) (hn : namedCheck h r = none) :
    noMoveOutcome h r = .notMoving := by
  simp only [noMoveOutcome, hn]

/-- Cases 2 to 4 of R112: no Move Table entry names the slot. -/
theorem endMoveBody_unnamed (k : Cmd) (base : Word → Word → Word) (args : Quad Word) (s : State)
    (h : Handle) (hh : Handle.ofWord args.at0 = h) (hn : ∀ j, (s.moves.get j).names h.slot = false) :
    endMoveBody k base args s = s.finish k (noMoveOutcome h (s.record h.slot)) := by
  have hm : s.moveOf h.slot = none := (Quad.find_eq_none _ _).mpr hn
  simp only [endMoveBody, hh, hm]

/-- Case 1 of R112: the acknowledgement of a lapse empties the entry. -/
theorem endMoveBody_lapsed (k : Cmd) (base : Word → Word → Word) (args : Quad Word) (s : State)
    (h : Handle) (hh : Handle.ofWord args.at0 = h) (j : Fin 4) (hj : NamedBy s h.slot j)
    (he : s.moves.get j = .lapsed h.slot) :
    endMoveBody k base args s = { s with moves := s.moves.set j .idle }.finish k .lapsed := by
  simp only [endMoveBody, hh, moveOf_namedBy s _ j hj, he]

/-- Case 5 of R112: a COPYING entry whose record has another generation than the handle. -/
theorem endMoveBody_stale (k : Cmd) (base : Word → Word → Word) (args : Quad Word) (s : State)
    (h : Handle) (hh : Handle.ofWord args.at0 = h) (j : Fin 4) (hj : NamedBy s h.slot j)
    (newBase : Word) (remaining : Nat) (he : s.moves.get j = .copying h.slot newBase remaining)
    (hg : (s.record h.slot).gen ≠ h.gen) :
    endMoveBody k base args s = s.finish k .stale := by
  simp only [endMoveBody, hh, moveOf_namedBy s _ j hj, he, if_pos hg]

/-- R118: the requests released are those that R113 and R114 count. -/
theorem waitingFor_length (s : State) (n : Nat) :
    (waitingFor s.parkList n).length = releasedCount s n := List.length_map _

/-- Case 6 of R112: the move of a MOVING record ends, at the base chosen from the old and the new one. -/
theorem endMoveBody_ends (k : Cmd) (base : Word → Word → Word) (args : Quad Word) (s : State)
    (h : Handle) (hh : Handle.ofWord args.at0 = h) (j : Fin 4) (hj : NamedBy s h.slot j)
    (newBase : Word) (remaining : Nat) (he : s.moves.get j = .copying h.slot newBase remaining)
    (o : Object) (hr : s.record h.slot = .moving h.gen o) (b : Word) (hb : base o.ext.base newBase = b) :
    endMoveBody k base args s = (s.endMove h.slot b j .idle).complete k.code .done
      ⟨b, BitVec.ofNat 32 (releasedCount s h.slot), BitVec.ofNat 32 remaining⟩ := by
  have hold : (s.record h.slot).base = o.ext.base := by rw [hr]; rfl
  have hg : (s.record h.slot).gen = h.gen := by rw [hr]; rfl
  simp only [endMoveBody, hh, moveOf_namedBy s _ j hj, he, if_neg (not_not.mpr hg), hold, hb,
    waitingFor_length]
  rfl

/-- The end of the move of a MOVING record, in the terms of the statements: the record LIVE at its new
base, the entry in its new state, the parked requests released. -/
theorem State.endMove_moving (s : State) (n : Nat) (b : Word) (j : Fin 4) (e : MoveEntry)
    (g : BitVec 8) (o : Object) (hr : s.record n = .moving g o) :
    s.endMove n b j e = { released s n with
      records := putRecord s.records n (.live g { o with ext := { o.ext with base := b } })
      moves := s.moves.set j e } := by
  rw [State.endMove, hr]
  rfl

/-- Settles O36: the case table of R112, with no entry on the slot, with a LAPSED one, and with a COPYING
one. -/
theorem commitAndAbortEndAMove : Obligations.CommitAndAbortEndAMove := by
  intro s args h commit i k c hi hs
  have hh := servesHandle_ofWord s k args h hs
  obtain ⟨rfl, he⟩ := exec_endAccess_served s args commit i k c hi hs.1
  refine ⟨fun hn => ?unnamed, fun j hj => ⟨fun hl => ?lapsed, fun newBase remaining hc =>
    ⟨fun hg => ?stale, fun o base hr hbase => ?ended⟩⟩⟩
  case unnamed =>
    have hx (o : OutcomeCode) (ho : noMoveOutcome h (s.record h.slot) = o) :
        exec i s = .next (served s k.code o 0#32 0#32 0#32) := by
      subst ho
      exact he.trans (congrArg _ (endMoveBody_unnamed k _ args (s.grant .commandUnit) h hh hn))
    refine ⟨fun hw => ?_, fun hst => ?_, fun hw hst => ?_⟩
    · exact hx _ (noMoveOutcome_refused h _ _ (namedCheck_worn h _ hw))
    · exact hx _ (noMoveOutcome_refused h _ _ (namedCheck_stale h _ hst))
    · exact hx _ (noMoveOutcome_named h _ (namedCheck_of_not_stale h _ hw hst))
  case lapsed =>
    exact he.trans (congrArg _ (endMoveBody_lapsed k _ args (s.grant .commandUnit) h hh j hj hl))
  case stale =>
    exact he.trans (congrArg _
      (endMoveBody_stale k _ args (s.grant .commandUnit) h hh j hj newBase remaining hc hg))
  case ended =>
    have hb := endMoveBody_ends k (endBase commit) args (s.grant .commandUnit) h hh j hj newBase
      remaining hc o hr base hbase.symm
    rw [State.endMove_moving (s.grant .commandUnit) _ _ _ _ h.gen o hr] at hb
    exact exists_served_put (u := { released s h.slot with moves := s.moves.set j .idle })
      (he.trans (congrArg _ hb))

end Sys2Proof.Machine

/-! ## Sweeps: SWEEP_START, SWEEP_STOP and the visit (chapter 7)

SWEEP_START is judged by the sweep state, then by its action code, then by the selection its arguments
make. A visit is the action on the record at the cursor, told action by action as the counters it leaves,
followed by the end of the visit that `advanceSweep_eq` gives. -/

namespace Sys2Proof.Machine

open Sys2Proof Sys2Proof.Safety

/-! ### SWEEP_START (R122, R123) -/

/-- The action of a defined code: COUNT at 0, RETIRE at 1, RETAG at 2 (Table 9-5). -/
def actionNamed (b : BitVec 2) : SweepAction :=
  if b = 0#2 then .count else if b = 1#2 then .retire else .retag

theorem actionNamed_eq_count_iff (b : BitVec 2) : actionNamed b = .count ↔ b = 0#2 := by
  rcases bitVec2_cases b with rfl | rfl | rfl | rfl <;> decide

/-- Code 3 alone names no action (R122 test 4). -/
theorem actionOfCode_toNat (b : BitVec 2) :
    actionOfCode b.toNat = if b = 3#2 then none else some (actionNamed b) := by
  rcases bitVec2_cases b with rfl | rfl | rfl | rfl <;> rfl

/-- R122 test 1: a sweep is on. -/
theorem exec_sweepStart_busy (s : State) (hs : Accepting s) (hb : s.sweep.state ≠ .idle) :
    exec .sweepStart s = .next (completed s 0x20#8 .busy 0#32 0#32 0#32) := by
  simp only [exec, execSweepStart, s.submit_accepting _ hs, if_pos hb, State.finish_eq_completed, Cmd.code]

/-- R122 test 4: the action code names no action. -/
theorem exec_sweepStart_noAction (s : State) (hs : Accepting s) (hidle : s.sweep.state = .idle)
    (ha : s.args.at1.extractLsb' 8 2 = 3#2) :
    exec .sweepStart s = .next (completed s 0x20#8 .badArgument 0#32 0#32 0#32) := by
  simp only [exec, execSweepStart, s.submit_accepting _ hs, if_neg (not_not.mpr hidle), bitsOf,
    actionOfCode_toNat, if_pos ha, State.finish_eq_completed, Cmd.code]

/-- With an action and no sweep on, SWEEP_START is judged by its selection alone; one that passes is
latched, and the results give the size of its range (R122, R123). -/
theorem exec_sweepStart_action (s : State) (hs : Accepting s) (hidle : s.sweep.state = .idle)
    (ha : s.args.at1.extractLsb' 8 2 ≠ 3#2) (sel : Selection)
    (hsel : selectionOf s.args (actionNamed (s.args.at1.extractLsb' 8 2)) = sel) :
    exec .sweepStart s = .next (if selectionOk sel
      then completed { s with sweep := startedSweep sel } 0x20#8 .done
        (BitVec.ofNat 32 (sel.endSlot - sel.startSlot + 1)) 0#32 0#32
      else completed s 0x20#8 .badArgument 0#32 0#32 0#32) := by
  simp only [exec, execSweepStart, s.submit_accepting _ hs, if_neg (not_not.mpr hidle), bitsOf,
    actionOfCode_toNat, if_neg ha, hsel, State.finish_eq_completed, Cmd.code]
  rfl

/-- Tests 2, 3 and 5 of R122 on the selection that arguments make, by the words. -/
theorem selectionOk_selectionOf_iff (args : Quad Word) (b : BitVec 2) :
    selectionOk (selectionOf args (actionNamed b)) = true ↔
      (1 ≤ (args.at0.extractLsb' 0 13).toNat ∧ (args.at0.extractLsb' 0 13).toNat ≤ 4095
        ∧ 1 ≤ (args.at0.extractLsb' 16 13).toNat ∧ (args.at0.extractLsb' 16 13).toNat ≤ 4095
        ∧ (args.at0.extractLsb' 0 13).toNat ≤ (args.at0.extractLsb' 16 13).toNat
        ∧ (b = 0#2 ∨ (args.at1.getLsbD 0 = false ∧ args.at1.getLsbD 4 = false))) := by
  rw [selectionOk_iff, ← actionNamed_eq_count_iff]
  simp [selectionOf, bitsOf]

/-- Settles O39: BUSY first, then the tests on the arguments, and the latched selection on a pass. -/
theorem sweepStartLatchesTheSelection : Obligations.SweepStartLatchesTheSelection := by
  rintro s first last action hs rfl rfl rfl
  refine ⟨exec_sweepStart_busy s hs, fun hidle => ⟨fun hbad => ?refused, fun h1 hle h2 ha hst => ?started⟩⟩
  case refused =>
    by_cases ha : s.args.at1.extractLsb' 8 2 = 3#2
    case pos => exact exec_sweepStart_noAction s hs hidle ha
    case neg =>
      rw [exec_sweepStart_action s hs hidle ha _ rfl, if_neg]
      rw [selectionOk_selectionOf_iff]
      rintro ⟨hf1, hf2, hl1, hl2, hfl, hst⟩
      rcases hbad with h | h | h | h | h | h | ⟨hc, h⟩
      any_goals omega
      · exact ha h
      · obtain ⟨h0, h4⟩ := hst.resolve_left hc
        rw [h0, h4] at h
        exact h.elim Bool.noConfusion Bool.noConfusion
  case started =>
    have hok := (selectionOk_selectionOf_iff s.args (s.args.at1.extractLsb' 8 2)).mpr
      ⟨h1, hle.trans h2, h1.trans hle, h2, hle, hst⟩
    rw [exec_sweepStart_action s hs hidle ha _ rfl, if_pos hok]
    rfl

/-! ### The visit (R125 to R128, R131) -/

/-- The Sweep Unit granted, with three values in its counters: what a visit leaves before its end. -/
def State.counting (s : State) (m a k : Nat) : State :=
  { s.grant .sweepUnit with sweep := { s.sweep with matched := m, acted := a, skipped := k } }

/-- The end of a visit, from the counters it leaves (R125 steps 3 and 4). -/
theorem State.counting_advanceSweep (s : State) (m a k : Nat) :
    (s.counting m a k).advanceSweep = visited s m a k := advanceSweep_eq s m a k

/-- A visit, when granted, is its body. -/
theorem exec_sweepVisit_granted (s : State) (hg : s.granted = some .sweepUnit) :
    exec .sweepVisit s = .next (visitBody (s.grant .sweepUnit)) :=
  congrArg _ (s.access_granted _ _ hg)

/-- A record that does not match is passed by, with the counters as they stand (R125). -/
theorem exec_sweepVisit_unmatched (s : State) (hg : s.granted = some .sweepUnit)
    (hm : ¬ Matches s.sweep.sel (s.record s.sweep.cursor)) :
    exec .sweepVisit s = .next (visited s s.sweep.matched s.sweep.acted s.sweep.skipped) := by
  have hb : visitBody (s.grant .sweepUnit) = (s.grant .sweepUnit).advanceSweep :=
    if_neg fun c => hm ((matchesSelection_iff _ _).mp c)
  rw [exec_sweepVisit_granted s hg, hb]
  exact congrArg _ (advanceSweep_eq s s.sweep.matched s.sweep.acted s.sweep.skipped)

/-- A record that matches is acted on; the visit ends from the counters the action leaves in some
state `u` (R125). -/
theorem exec_sweepVisit_matched (s : State) (hg : s.granted = some .sweepUnit)
    (hm : Matches s.sweep.sel (s.record s.sweep.cursor)) (u : State) (m a k : Nat)
    (hu : (s.grant .sweepUnit).sweepAct s.sweep.cursor = u.counting m a k) :
    exec .sweepVisit s = .next (visited u m a k) := by
  have hb : visitBody (s.grant .sweepUnit)
      = ((s.grant .sweepUnit).sweepAct s.sweep.cursor).advanceSweep :=
    if_pos ((matchesSelection_iff _ _).mpr hm)
  rw [exec_sweepVisit_granted s hg, hb, hu, State.counting_advanceSweep]

/-- COUNT counts the match alone (R126). -/
theorem State.sweepAct_count (s : State) (n : Nat) (ha : s.sweep.sel.action = .count) :
    (s.grant .sweepUnit).sweepAct n
      = s.counting (s.sweep.matched + 1) s.sweep.acted s.sweep.skipped := by
  simp only [State.sweepAct, State.grant_sweep, ha]
  rfl

/-- RETIRE skips a match it may not retire (R127). -/
theorem State.sweepAct_skips (s : State) (n : Nat) (ha : s.sweep.sel.action = .retire)
    (hr : sweepRetires (s.record n) = false) :
    (s.grant .sweepUnit).sweepAct n
      = s.counting (s.sweep.matched + 1) s.sweep.acted (s.sweep.skipped + 1) := by
  simp only [State.sweepAct, State.grant_sweep, State.grant_record, ha, hr]
  rfl

/-- RETIRE makes the retire effect on any other match (R28, R127). -/
theorem State.sweepAct_retires (s : State) (n : Nat) (ha : s.sweep.sel.action = .retire)
    (hr : sweepRetires (s.record n) = true) :
    (s.grant .sweepUnit).sweepAct n
      = { afterRetire s n with records := putRecord s.records n (spent (s.record n).gen) }.counting
          (s.sweep.matched + 1) (s.sweep.acted + 1) s.sweep.skipped := by
  have he := (s.grant .sweepUnit).retire_eq n
    ((sweepRetires_true _ hr).imp_left fun ⟨g, o, h, _⟩ => ⟨g, o, h⟩)
  simp only [State.sweepAct, State.grant_sweep, State.grant_record, ha, hr, if_true, he]
  rfl

/-- RETAG gives a match the new class (R128). -/
theorem State.sweepAct_retag (s : State) (n : Nat) (ha : s.sweep.sel.action = .retag) :
    (s.grant .sweepUnit).sweepAct n
      = { s with records :=
            putRecord s.records n ((s.record n).withClass s.sweep.sel.newClass) }.counting
          (s.sweep.matched + 1) (s.sweep.acted + 1) s.sweep.skipped := by
  simp only [State.sweepAct, State.grant_sweep, State.grant_record, ha]
  rfl

@[simp] theorem visited_records (s : State) (m a k : Nat) : (visited s m a k).records = s.records := by
  rw [visited]
  dsimp only
  split
  · rfl
  · split <;> rfl

/-- A visit that writes one record, in the terms of the statements; `u` holds what it changes beside that
record and the end of the visit. -/
theorem exists_visited_put {s u : State} {n : Nat} {r : Record} {m a k : Nat}
    {x : Host.Outcome State Fault Refusal}
    (hx : x = .next (visited { u with records := putRecord s.records n r } m a k)) :
    ∃ t, x = .next t ∧ t.record n = r ∧ RecordsAgreeBut s t n
      ∧ t = visited { u with records := t.records } m a k := by
  have hrec := visited_records { u with records := putRecord s.records n r } m a k
  exact ⟨_, hx, record_put_same s _ n r hrec, recordsAgreeBut_put s _ n r hrec, by rw [hrec]⟩

/-- Settles O41: no match, then COUNT, RETIRE with its skips, and RETAG in each state with a class. -/
theorem visitActsOnTheRecordAtTheCursor : Obligations.VisitActsOnTheRecordAtTheCursor := by
  rintro s n m a k hg rfl rfl rfl rfl
  refine ⟨exec_sweepVisit_unmatched s hg, fun hm => ?_⟩
  have acted := exec_sweepVisit_matched s hg hm
  refine ⟨fun ha => ?count, fun ha => ⟨fun hr => ?skipped, fun hr => ?retired⟩, fun ha => ?retagged⟩
  case count => exact acted _ _ _ _ (s.sweepAct_count _ ha)
  case skipped =>
    have hskip : sweepRetires (s.record s.sweep.cursor) = false := by
      rcases hr with ⟨g, o, hr⟩ | ⟨g, o, hr, hp⟩
      · rw [hr, sweepRetires]
      · rw [hr, sweepRetires, beq_false_of_ne hp]
    exact acted _ _ _ _ (s.sweepAct_skips _ ha hskip)
  case retired =>
    have hret : sweepRetires (s.record s.sweep.cursor) = true := by
      rcases hr with ⟨g, o, hr, hp⟩ | ⟨g, c, target, hr⟩
      · rw [hr, sweepRetires, hp, beq_self_eq_true]
      · rw [hr, sweepRetires]
    exact exists_visited_put (u := afterRetire s s.sweep.cursor)
      (acted _ _ _ _ (s.sweepAct_retires _ ha hret))
  case retagged =>
    obtain ⟨t, ht, hrec, hothers, hx⟩ :=
      exists_visited_put (u := s) (acted _ _ _ _ (s.sweepAct_retag _ ha))
    refine ⟨t, ht, fun g o hr => ?live, fun g o hr => ?moving, fun g c target hr => ?forwarded, hothers, hx⟩
    case live => rw [hrec, hr, Record.withClass]
    case moving => rw [hrec, hr, Record.withClass]
    case forwarded => rw [hrec, hr, Record.withClass]

/-! ### SWEEP_STOP (R130) -/

/-- Settles O40: SWEEP_STOP is judged by the sweep state alone, with an answer in each of the three. -/
theorem sweepStopAsksForTheEnd : Obligations.SweepStopAsksForTheEnd := by
  intro s hs
  simp only [exec, execSweepStop, s.submit_accepting _ hs, State.finish_eq_completed, Cmd.code]
  refine ⟨fun hrunning => ?running, fun hstopping => ?stopping, fun hidle => ?idle⟩
  case running => rw [hrunning]
  case stopping => rw [hstopping]
  case idle => rw [hidle]

end Sys2Proof.Machine

/-! ## The Lookup Link: the link UNPIN, LINK_OPEN and LINK_CLOSE (chapter 8)

What `linkUnpin` answers is told record by record, one lemma for each check of R143. Its access is then a
refusal or one record written, and either way the walk engine ends as at the end of a walk. -/

namespace Sys2Proof.Machine

open Sys2Proof Sys2Proof.Safety

/-! ### The checks of the link UNPIN (R143) -/

/-- R143 check 1. A WORN record is of generation 255, so a handle of another generation is refused here. -/
theorem linkUnpin_stale (h : Handle) (d : BitVec 4) (r : Record)
    (hr : (∃ g, r = .free g) ∨ r.gen ≠ h.gen) : linkUnpin h d r = .error .stale := by
  have gen_ne (hfree : ∀ g, r ≠ .free g) : r.gen ≠ h.gen :=
    hr.resolve_left fun ⟨g, hg⟩ => hfree g hg
  cases r with
  | free g => rfl
  | worn => exact if_neg (gen_ne (fun _ => Record.noConfusion)).symm
  | live g o => exact if_pos (gen_ne fun _ => Record.noConfusion)
  | moving g o => exact if_neg (gen_ne fun _ => Record.noConfusion)
  | forwarded g c target => exact if_neg (gen_ne fun _ => Record.noConfusion)

/-- R143 check 2. -/
theorem linkUnpin_worn (h : Handle) (d : BitVec 4) (hg : h.gen = 255#8) :
    linkUnpin h d .worn = .error .worn := if_pos hg

/-- R143 check 3, of a MOVING record. -/
@[simp] theorem linkUnpin_moving_same (h : Handle) (d : BitVec 4) (o : Object) :
    linkUnpin h d (.moving h.gen o) = .error .notLive := if_pos rfl

/-- R143 check 3, of a forwarder. -/
@[simp] theorem linkUnpin_forwarded_same (h : Handle) (d : BitVec 4) (c : BitVec 8) (target : Handle) :
    linkUnpin h d (.forwarded h.gen c target) = .error .notLive := if_pos rfl

/-- A LIVE record of the handle's generation is judged by its domain and its pin count alone (R143 checks
4 and 5). -/
theorem linkUnpin_live_same (h : Handle) (d : BitVec 4) (o : Object) :
    linkUnpin h d (.live h.gen o) =
      if d ≠ o.ext.domain ∧ o.ext.shared = false then .error .domain
      else if o.pins = 0#8 then .error .unpinUnderflow
      else .ok { o with pins := o.pins - 1#8 } := if_neg (not_not.mpr rfl)

/-- R143 check 4 passes: the request's domain is the owner's, or the record is shared. -/
theorem linkUnpin_domain_passes (h : Handle) (d : BitVec 4) (o : Object)
    (hd : d = o.ext.domain ∨ o.ext.shared = true) :
    linkUnpin h d (.live h.gen o) =
      if o.pins = 0#8 then .error .unpinUnderflow else .ok { o with pins := o.pins - 1#8 } := by
  refine (linkUnpin_live_same h d o).trans (if_neg fun ⟨hne, hunshared⟩ => ?_)
  rcases hd with hd | hshared
  · exact hne hd
  · exact Bool.noConfusion (hshared.symm.trans hunshared)

/-! ### The access of the link UNPIN -/

/-- R79, R81: a walk engine that answers its request in the access granted to it ends as the statements say
a walk ends. -/
theorem State.place_settleEngine (t : State) (e : EngineId) (q : LinkRequest) (x : WalkResult)
    (next : Option Shortcut) (hq : requestOf (t.engine e) = some q) :
    ((t.grant (walkerClient (.engine e))).place q x).settleEngine e next
      = walkEnds (.engine e) t x next := by
  simp only [walkEnds, hq]
  exact State.settleEngine_grant (t.place q x) e next

/-- The access of a link UNPIN, when granted, is its body, after which the engine rests. -/
theorem exec_linkUnpinAccess_granted (s : State) (e : EngineId) (q : LinkRequest)
    (hg : s.granted = some (walkerClient (.engine e))) (he : s.engine e = .unpinning q) :
    exec (.linkUnpinAccess e) s =
      .next ((linkUnpinBody q (s.grant (walkerClient (.engine e)))).settleEngine e none) := by
  rw [walkerClient_engine] at hg ⊢
  simp only [exec, execLinkUnpinAccess, he, s.access_granted _ _ hg]

/-- A refusal of R143 is answered, and writes no record. -/
theorem linkUnpinBody_error (q : LinkRequest) (s : State) (h : Handle) (hh : Handle.ofWord q.req.origin = h)
    (o : OutcomeCode) (ho : linkUnpin h q.req.domain (s.record h.slot) = .error o) :
    linkUnpinBody q s = s.place q (refusal o 0 false) := by
  simp only [linkUnpinBody, hh, ho]
  rfl

/-- A pass of R143 writes the object with its lowered pin count, and answers DONE. -/
theorem linkUnpinBody_ok (q : LinkRequest) (s : State) (h : Handle) (hh : Handle.ofWord q.req.origin = h)
    (o : Object) (ho : linkUnpin h q.req.domain (s.record h.slot) = .ok o) :
    linkUnpinBody q s = (s.setRecord h.slot (.live h.gen o)).place q (refusal .done 0 false) := by
  simp only [linkUnpinBody, hh, ho]
  rfl

/-- A refused link UNPIN ends as a refused walk does, with hop count 0. -/
theorem exec_linkUnpinAccess_refused (s : State) (e : EngineId) (q : LinkRequest)
    (hg : s.granted = some (walkerClient (.engine e))) (he : s.engine e = .unpinning q) (h : Handle)
    (hh : Handle.ofWord q.req.origin = h) (o : OutcomeCode)
    (ho : linkUnpin h q.req.domain (s.record h.slot) = .error o) :
    exec (.linkUnpinAccess e) s = .next (walkEnds (.engine e) s (refusal o 0 false) none) := by
  have hq : requestOf (s.engine e) = some q := by rw [he, requestOf]
  rw [exec_linkUnpinAccess_granted s e q hg he,
    linkUnpinBody_error q (s.grant (walkerClient (.engine e))) h hh o ho,
    s.place_settleEngine e q _ none hq]

@[simp] theorem State.setRecord_engine (s : State) (n : Nat) (r : Record) (e : EngineId) :
    (s.setRecord n r).engine e = s.engine e := by
  cases e <;> rfl

/-- A link UNPIN that passes ends with one record written. -/
theorem exec_linkUnpinAccess_passes (s : State) (e : EngineId) (q : LinkRequest)
    (hg : s.granted = some (walkerClient (.engine e))) (he : s.engine e = .unpinning q) (h : Handle)
    (hh : Handle.ofWord q.req.origin = h) (o : Object)
    (ho : linkUnpin h q.req.domain (s.record h.slot) = .ok o) :
    exec (.linkUnpinAccess e) s =
      .next (walkEnds (.engine e) (s.setRecord h.slot (.live h.gen o)) (refusal .done 0 false) none) := by
  have hq : requestOf ((s.setRecord h.slot (.live h.gen o)).engine e) = some q := by
    rw [State.setRecord_engine, he, requestOf]
  rw [exec_linkUnpinAccess_granted s e q hg he,
    linkUnpinBody_ok q (s.grant (walkerClient (.engine e))) h hh o ho,
    ← State.place_settleEngine _ e q _ none hq]
  rfl

/-- The end of a walk or of a link UNPIN that writes one record, in the terms of the statements. -/
theorem exists_walkEnds_put {s : State} {w : Walker} {n : Nat} {r : Record} {result : WalkResult}
    {next : Option Shortcut} {x : Host.Outcome State Fault Refusal}
    (hx : x = .next (walkEnds w (s.setRecord n r) result next)) :
    ∃ t, x = .next t ∧ t.record n = r ∧ RecordsAgreeBut s t n
      ∧ t = walkEnds w { s with records := t.records } result next := by
  have hrec : (walkEnds w (s.setRecord n r) result next).records = putRecord s.records n r :=
    walkEnds_records w _ result next
  exact ⟨_, hx, record_put_same s _ n r hrec, recordsAgreeBut_put s _ n r hrec, by rw [hrec]; rfl⟩

/-- Settles O30: the five checks of R143 in their order, and the lowered pin count on a pass. -/
theorem linkUnpinLowersThePinCount : Obligations.LinkUnpinLowersThePinCount := by
  intro s e q h hg he hh
  have hh : Handle.ofWord q.req.origin = h := hh.symm
  have refused (o : OutcomeCode) (ho : linkUnpin h q.req.domain (s.record h.slot) = .error o) :
      exec (.linkUnpinAccess e) s = .next (walkEnds (.engine e) s (refusal o 0 false) none) :=
    exec_linkUnpinAccess_refused s e q hg he h hh o ho
  refine ⟨fun hst => ?stale, fun hw hgen => ?worn, fun hr => ?notLive, fun o hl =>
    ⟨fun hd hunshared => ?domain, fun hd hp => ?underflow, fun hd hp => ?lowered⟩⟩
  case stale => exact refused _ (linkUnpin_stale h _ _ hst)
  case worn => exact refused _ (by rw [hw, linkUnpin_worn h _ hgen])
  case notLive =>
    rcases hr with ⟨o, hm⟩ | ⟨c, target, hf⟩
    · exact refused _ (by rw [hm, linkUnpin_moving_same])
    · exact refused _ (by rw [hf, linkUnpin_forwarded_same])
  case domain => exact refused _ (by rw [hl, linkUnpin_live_same, if_pos ⟨hd, hunshared⟩])
  case underflow => exact refused _ (by rw [hl, linkUnpin_domain_passes h _ o hd, if_pos hp])
  case lowered =>
    exact exists_walkEnds_put (exec_linkUnpinAccess_passes s e q hg he h hh _
      (by rw [hl, linkUnpin_domain_passes h _ o hd, if_neg hp]))

/-! ### LINK_OPEN and LINK_CLOSE (R147, R148) -/

/-- R148: from OPEN the gate starts a drain, whose condition is tested at once. -/
theorem State.closeGate_opened (s : State) (ho : s.gate = .opened) :
    s.closeGate = drainTested { s with gate := .draining } := by
  simp only [State.closeGate, ho, State.testDrain_eq]

/-- R148: from DRAINING and from CLOSED the gate does not change. -/
theorem State.closeGate_not_opened (s : State) (hn : s.gate ≠ .opened) : s.closeGate = s := by
  cases hgate : s.gate with
  | opened => exact absurd hgate hn
  | draining => simp only [State.closeGate, hgate]
  | closed => simp only [State.closeGate, hgate]

/-- LINK_OPEN completes at acceptance with the gate OPEN, whatever it was (R147). -/
theorem exec_linkOpen_accepting (s : State) (hs : Accepting s) :
    exec .linkOpen s = .next (completed { s with gate := .opened } 0x28#8 .done 0#32 0#32 0#32) := by
  simp only [exec, execLinkOpen, s.submit_accepting _ hs, State.finish_eq_completed, Cmd.code]

/-- LINK_CLOSE completes at acceptance with the link in-flight count as it stood there (R136, R148). -/
theorem exec_linkClose_accepting (s : State) (hs : Accepting s) :
    exec .linkClose s = .next (completed s.closeGate 0x29#8 .done (BitVec.ofNat 32 s.inFlight)
      0#32 0#32) := by
  simp only [exec, execLinkClose, s.submit_accepting _ hs, Cmd.code]
  rfl

/-- Settles O44: LINK_OPEN from any gate state, and LINK_CLOSE from OPEN and from the others. -/
theorem linkCommandsMoveTheGate : Obligations.LinkCommandsMoveTheGate := by
  rintro s _ hs rfl
  have hclose := exec_linkClose_accepting s hs
  refine ⟨exec_linkOpen_accepting s hs, fun ho => ?opened, fun hn => ?others⟩
  case opened =>
    rw [s.closeGate_opened ho] at hclose
    exact hclose
  case others =>
    rw [s.closeGate_not_opened hn] at hclose
    exact hclose

end Sys2Proof.Machine

/-! ## The Control Window: writes of COMMAND, SET_CONFIG and READ_CONFIG (chapter 9)

A write of COMMAND of any code is one submission, whose answer in each phase is told once. The two
configuration commands are then judged by the range Table 9-7 gives the field number, case by case, with
one reasoning rule for a configuration field read after a write. -/

namespace Sys2Proof.Machine

open Sys2Proof Sys2Proof.Safety

/-! ### A write of COMMAND in each phase (R154, R156) -/

/-- R156: while BUSY, a write of COMMAND is refused with COLLIDE. -/
theorem State.submit_busy (s : State) (accept : Quad Word → State → State) (hp : s.phase = .running)
    (hc : s.cmd ≠ none) : s.submit accept = s.raise .collide := by
  have hbusy : s.busy = true := Option.isSome_iff_ne_none.mpr hc
  simp only [State.submit, hp, hbusy, if_true]

/-- R156: while RESETTING, a write of COMMAND is ignored. -/
theorem State.submit_resetting (s : State) (accept : Quad Word → State → State)
    (hp : s.phase = .resetting) : s.submit accept = s := by
  simp only [State.submit, hp]

/-- R154: every command is submitted, with its own acceptance. -/
theorem execCommand_eq_submit (k : Cmd) :
    ∃ accept, ∀ s, execCommand k s = .next (s.submit accept) := by
  cases k <;> exact ⟨_, fun _ => rfl⟩

/-- The row of a command submits that command (Table 9-4). -/
theorem exec_row (k : Cmd) (s : State) : exec k.row s = execCommand k s := by
  cases k <;> rfl

/-- The rows that write COMMAND with a code of Table 9-4 are the rows of the commands. -/
theorem row_of_mem_submissions (i : Instr) (k : Cmd) (hi : (i, k) ∈ submissions) : i = k.row :=
  (by decide : ∀ p ∈ submissions, p.1 = p.2.row) (i, k) hi

/-- A write of COMMAND with any word is a submission, whether or not its code names a command. -/
theorem exec_unknownCommand_eq_submit (w : Word) :
    ∃ accept, ∀ s, exec (.unknownCommand w) s = .next (s.submit accept) := by
  simp only [exec, execUnknownCommand]
  cases commandOfCode (commandCode w) with
  | some k => exact execCommand_eq_submit k
  | none => exact ⟨_, fun _ => rfl⟩

/-- Every row that writes COMMAND is a submission. -/
theorem exec_commandWrite_eq_submit (i : Instr)
    (hi : (∃ k, (i, k) ∈ submissions) ∨ ∃ w, i = .unknownCommand w) :
    ∃ accept, ∀ s, exec i s = .next (s.submit accept) := by
  rcases hi with ⟨k, hk⟩ | ⟨w, rfl⟩
  · simp only [row_of_mem_submissions i k hk, exec_row]
    exact execCommand_eq_submit k
  · exact exec_unknownCommand_eq_submit w

/-- Settles O9: every write of COMMAND is a submission, which BUSY refuses and RESETTING ignores. -/
theorem commandWriteWhileBusyCollides : Obligations.CommandWriteWhileBusyCollides := by
  intro i s hi
  obtain ⟨accept, hsubmit⟩ := exec_commandWrite_eq_submit i hi
  rw [hsubmit]
  refine ⟨fun hp hc => ?busy, fun hp => ?resetting⟩
  case busy =>
    rw [s.submit_busy accept hp hc]
    rfl
  case resetting => rw [s.submit_resetting accept hp]

/-! ### Codes that name no command (R158) -/

/-- A code names no command when it is the code of none. -/
theorem commandOfCode_eq_none_iff (c : BitVec 8) :
    commandOfCode c = none ↔ c ∉ allCmds.map Cmd.code := by
  simp only [commandOfCode, List.find?_eq_none, beq_iff_eq, List.mem_map, not_exists, not_and]

/-- Settles O10: the code is none of Table 9-4's, so its submission completes at acceptance. -/
theorem unknownCodeCompletesAtOnce : Obligations.UnknownCodeCompletesAtOnce := by
  intro w s hs hcode
  have hnone : commandOfCode (commandCode w) = none := (commandOfCode_eq_none_iff _).mpr hcode
  simp only [exec, execUnknownCommand, hnone, s.submit_accepting _ hs]
  rfl

/-! ### One configuration field written (Table 9-7) -/

/-- A write in range is what a read of the same field returns. -/
theorem fieldValue_write_same (c : ConfigFields) (f v lo hi : Nat) (hf : fieldRange f = some (lo, hi))
    (hlo : lo ≤ v) (hhi : v ≤ hi) : fieldValue (c.write f v) f = v := by
  match f with
  | 0 | 3 | 4 | 5 => rfl
  | 1 | 2 =>
    cases hf
    obtain rfl | rfl : v = 0 ∨ v = 1 := by omega
    · rfl
    · rfl
  | n + 6 => cases hf

/-- A write of a field leaves every other field as it was: of the six writes, the one that would reach
field `g` is the one that `g ≠ f` rules out. -/
theorem fieldValue_write_other (c : ConfigFields) (f v g : Nat) (hne : g ≠ f) :
    fieldValue (c.write f v) g = fieldValue c g := by
  match g with
  | 0 | 1 | 2 | 3 | 4 | 5 =>
    unfold ConfigFields.write
    split <;> simp_all [fieldValue]
  | n + 6 => rfl

/-! ### READ_CONFIG and SET_CONFIG at acceptance (R163, R164) -/

/-- R164: a number that is no field's has no value. -/
theorem configRead_none (c : ConfigFields) (f : Nat) (hf : fieldRange f = none) : c.read f = none := by
  rw [configRead_eq, hf, Option.map_none]

/-- R164: the value of a field. -/
theorem configRead_some (c : ConfigFields) (f : Nat) (r : Nat × Nat) (hf : fieldRange f = some r) :
    c.read f = some (fieldValue c f) := by
  rw [configRead_eq, hf, Option.map_some]

/-- R164: READ_CONFIG of a number that is no field's. -/
theorem exec_readConfig_noField (s : State) (hs : Accepting s) (hf : fieldRange s.args.at0.toNat = none) :
    exec .readConfig s = .next (completed s 0x31#8 .badArgument 0#32 0#32 0#32) := by
  simp only [exec, execReadConfig, s.submit_accepting _ hs, configRead_none _ _ hf,
    State.finish_eq_completed, Cmd.code]

/-- R164: READ_CONFIG of a field reports its value. -/
theorem exec_readConfig_field (s : State) (hs : Accepting s) (r : Nat × Nat)
    (hf : fieldRange s.args.at0.toNat = some r) :
    exec .readConfig s = .next (completed s 0x31#8 .done
      (BitVec.ofNat 32 (fieldValue s.config s.args.at0.toNat)) 0#32 0#32) := by
  simp only [exec, execReadConfig, s.submit_accepting _ hs, configRead_some _ _ r hf]
  rfl

/-- R163: SET_CONFIG of a number that is no field's. -/
theorem exec_setConfig_noField (s : State) (hs : Accepting s) (hf : fieldRange s.args.at0.toNat = none) :
    exec .setConfig s = .next (completed s 0x30#8 .badArgument 0#32 0#32 0#32) := by
  simp only [exec, execSetConfig, s.submit_accepting _ hs, configRead_none _ _ hf,
    State.finish_eq_completed, Cmd.code]

/-- R163: SET_CONFIG of a field is judged by the value's range; in range, CACHE_EN waits for its access, and
any other field is written. -/
theorem exec_setConfig_field (s : State) (hs : Accepting s) (lo hi : Nat)
    (hf : fieldRange s.args.at0.toNat = some (lo, hi)) :
    exec .setConfig s = .next (
      if ¬ (lo ≤ s.args.at1.toNat ∧ s.args.at1.toNat ≤ hi) then
        completed s 0x30#8 .badArgument 0#32 0#32 0#32
      else if s.args.at0.toNat = 2 then accepted s .setConfig .single
      else completed { s with config := s.config.write s.args.at0.toNat s.args.at1.toNat } 0x30#8 .done
        (BitVec.ofNat 32 (fieldValue s.config s.args.at0.toNat)) 0#32 0#32) := by
  simp only [exec, execSetConfig, s.submit_accepting _ hs, configRead_some _ _ _ hf,
    ← configInRange_iff _ _ _ _ hf, Bool.not_eq_true]
  rfl

/-! ### The access of CACHE_EN (R54) -/

/-- The access of SET_CONFIG of CACHE_EN, when granted, is its body. -/
theorem exec_cacheEnAccess_served (s : State) (args : Quad Word) (hs : ServesSingle s .setConfig args) :
    exec .cacheEnAccess s = .next (cacheEnBody args (s.grant .commandUnit)) := by
  simp only [exec, execCacheEnAccess, s.commandAccess_served _ _ _ hs]

/-- Settles O46: the field number first, then the value's range, then the write at acceptance or, for
CACHE_EN, in its access. -/
theorem configFieldsAreWrittenAndRead : Obligations.ConfigFieldsAreWrittenAndRead := by
  refine ⟨?acceptance, fun s args hs => ⟨fun hv => ?clear, fun hv => ?set⟩⟩
  case acceptance =>
    rintro s _ _ hs rfl rfl
    refine ⟨fun hf => ⟨exec_setConfig_noField s hs hf, exec_readConfig_noField s hs hf⟩, fun lo hi hf => ?_⟩
    rw [exec_setConfig_field s hs lo hi hf]
    refine ⟨exec_readConfig_field s hs _ hf, fun hout => ?refused, fun hlo hhi h2 => ?waits,
      fun hlo hhi h2 => ?written⟩
    case refused => rw [if_pos (by omega)]
    case waits => rw [if_neg (not_not.mpr ⟨hlo, hhi⟩), if_pos h2]
    case written =>
      rw [if_neg (not_not.mpr ⟨hlo, hhi⟩), if_neg h2]
      exact ⟨_, rfl, fieldValue_write_same _ _ _ lo hi hf hlo hhi,
        fun g hg => fieldValue_write_other _ _ _ g hg, rfl⟩
  case clear =>
    rw [exec_cacheEnAccess_served s args hs, cacheEnBody, hv]
    rfl
  case set =>
    rw [exec_cacheEnAccess_served s args hs, cacheEnBody, hv]
    rfl

end Sys2Proof.Machine

/-! ## What every event is made of: the effects (for the laws of all chapters)

`Effect` lists the single changes that events are chains of, each with what held before it and with the
fields it changes written out. A predicate that is closed under effects is kept by every event and every
step (`closed_kept`). A law is then judged effect by effect, and the effects that touch no field the law
reads keep it as it stands. -/

namespace Sys2Proof.Machine

open Sys2Proof Sys2Proof.Safety

/-! ### The parts of an effect -/

/-- A record written without a change of its state, generation, extent group, or of the pin count of a
MOVING record: pins (R32, R33), classes (R128), forward targets (R73). -/
inductive Rewrites : Record → Record → Prop
  | same (r : Record) : Rewrites r r
  | live (g : BitVec 8) (o o' : Object) : o'.ext = o.ext → Rewrites (.live g o) (.live g o')
  | moving (g : BitVec 8) (o o' : Object) : o'.ext = o.ext → o'.pins = o.pins →
      Rewrites (.moving g o) (.moving g o')
  | forwarded (g c : BitVec 8) (t : Handle) (c' : BitVec 8) (t' : Handle) :
      Rewrites (.forwarded g c t) (.forwarded g c' t')

/-- A LIVE or MOVING record written with other access fields, on the same range of addresses (R15). -/
inductive Alters : Record → Record → Prop
  | live (g : BitVec 8) (o o' : Object) : o'.ext.base = o.ext.base → o'.ext.length = o.ext.length →
      Alters (.live g o) (.live g o')
  | moving (g : BitVec 8) (o o' : Object) : o'.ext.base = o.ext.base → o'.ext.length = o.ext.length →
      o'.pins = o.pins → Alters (.moving g o) (.moving g o')

/-- A record that is unpinned and LIVE, or FORWARDED: one that may be retired or forwarded (R27, R88). -/
def Spendable (r : Record) : Prop :=
  (∃ g o, r = .live g o ∧ o.pins = 0#8) ∨ ∃ g c target, r = .forwarded g c target

/-- The HOP_LIMIT that a walk of the window has: the one in force, or the one it took (R62). -/
def CommandLimit (s : State) (c : Command) (limit : Nat) : Prop :=
  limit = s.config.hopLimit ∨ ∃ r p, c.phase = .walking r p ∧ limit = p.limit

/-- The HOP_LIMIT that a walk of a walk engine has. -/
def EngineLimit (s : State) (e : EngineId) (limit : Nat) : Prop :=
  limit = s.config.hopLimit ∨ ∃ r p, s.engine e = .walking r p ∧ limit = p.limit

/-- The hop counts that a walk of the window can report: within the HOP_LIMIT, or the count it stands at. -/
def CommandReports (s : State) (c : Command) (hops : Nat) : Prop :=
  hops ≤ s.config.hopLimit ∨ ∃ r p, c.phase = .walking r p ∧ hops ≤ p.hops

/-- The hop counts that a walk engine can report. -/
def EngineReports (s : State) (e : EngineId) (hops : Nat) : Prop :=
  hops ≤ s.config.hopLimit ∨ ∃ r p, s.engine e = .walking r p ∧ hops ≤ p.hops

/-- The phases of FORWARD after its from access (R87). -/
def CmdPhase.afterFrom : CmdPhase → Bool
  | .checkWalk _ _ _ _ _ => true
  | .final _ _ _ _ _ => true
  | _ => false

/-- The state of an engine that has ended or parked its walk: SHORTCUT, or IDLE (R79). -/
def restingEngine : Option Shortcut → Engine
  | some c => .shortcut c
  | none => .idle

/-- `setEngine`, with the fields it changes written out. -/
def State.putEngine (s : State) (e : EngineId) (x : Engine) : State :=
  { s with engineA := (s.setEngine e x).engineA, engineB := (s.setEngine e x).engineB }

theorem State.setEngine_eq_putEngine (s : State) (e : EngineId) (x : Engine) :
    s.setEngine e x = s.putEngine e x := by
  cases e <;> rfl

/-- The request `r` leaves the head of the Release Queue or the head of the Lookup Queue (R80). -/
def TakenFrom (s : State) (r : LinkRequest) (released looked : List LinkRequest) : Prop :=
  (s.releaseQueue = r :: released ∧ s.lookupQueue = looked)
    ∨ (s.releaseQueue = released ∧ s.lookupQueue = r :: looked)

/-- The Sweep Unit after the cursor has been raised, ended or not (R125 steps 3 and 4, R131). -/
def SweepUnit.advanced (u : SweepUnit) : SweepUnit :=
  if u.sel.endSlot < u.cursor + 1 then
    { u with cursor := u.cursor + 1, state := .idle, endKind := .done }
  else if u.state = .stopping then
    { u with cursor := u.cursor + 1, state := .idle, endKind := .stopped }
  else { u with cursor := u.cursor + 1 }

/-- What a visit makes of the counters, by the action (R126 to R128). -/
inductive Counted (u : SweepUnit) : SweepUnit → Prop
  | unmatched : Counted u u
  | counted : u.sel.action = .count → Counted u { u with matched := u.matched + 1 }
  | skipped : u.sel.action = .retire →
      Counted u { u with matched := u.matched + 1, skipped := u.skipped + 1 }
  | acted : u.sel.action ≠ .count →
      Counted u { u with matched := u.matched + 1, acted := u.acted + 1 }

/-! ### The effects -/

/-- One change that an event makes; with `clears` false, none that clears or resets the directory. -/
inductive Effect (clears : Bool) : State → State → Prop
  /-- Fields that no law reads: phase, grant, epoch, window words, acknowledges. -/
  | plain (s : State) (phase : Phase) (client : Client) (epoch : BitVec 16) (args : Quad Word)
      (results : Results) (o : OutcomeCode) (code : BitVec 8) (events enables : BitVec 6)
      (acks : Quad (Option AckResult)) :
      Effect clears s { s with
        phase := phase, lastGranted := client, epoch := epoch, args := args, results := results
        lastOutcome := o, lastCommand := code, events := events, eventEnable := enables, acks := acks }
  -- the command in progress
  | cmdEnds (s : State) : Effect clears s { s with cmd := none }
  | cmdBegins (s : State) (k : Cmd) (args : Quad Word) (phase : CmdPhase) : Begins k args phase →
      Effect clears s { s with cmd := some ⟨k, args, phase⟩ }
  | cmdForwards (s : State) (c : Command) (phase : CmdPhase) : phase.afterFrom = true →
      Effect clears s { s with cmd := some { c with phase := phase } }
  | cmdWalks (s : State) (c : Command) (r : WalkRequest) (p : WalkProgress) : s.cmd = some c →
      1 ≤ p.hops → p.hops ≤ p.limit → CommandLimit s c p.limit →
      Effect clears s { s with cmd := some { c with phase := .walking r p } }
  | cmdShortcuts (s : State) (c : Command) (sc : Shortcut) (x : WalkResult) : s.cmd = some c →
      CommandReports s c x.hops →
      Effect clears s { s with cmd := some { c with phase := .walkShortcut sc x } }
  -- the Record Store, the queue and the cache
  | rewrites (s : State) (n : Nat) (r : Record) : Rewrites (s.record n) r →
      Effect clears s (s.setRecord n r)
  | alters (s : State) (n : Nat) (r : Record) : Alters (s.record n) r →
      Effect clears s ((s.setRecord n r).dropFinal n)
  | resizes (s : State) (n : Nat) (g : BitVec 8) (o : Object) (args : Quad Word) :
      s.cmd = some ⟨.resize, args, .single⟩ → s.record n = .live g o →
      extentFits o.ext.base args.at1.toNat = true →
      Effect clears s ((s.setRecord n
        (.live g { o with ext := { o.ext with length := args.at1.toNat } })).dropFinal n)
  | allocates (s : State) (n : Nat) (rest : List Nat) (args : Quad Word) :
      s.cmd = some ⟨.create, args, .single⟩ → s.freeQueue = n :: rest →
      Effect clears s { s with
        records := putRecord s.records n (.live (s.record n).gen (createdObject args))
        freeQueue := rest }
  | retires (s : State) (n : Nat) : Spendable (s.record n) →
      Effect clears s { afterRetire s n with
        records := putRecord s.records n (spent (s.record n).gen) }
  | forwards (s : State) (n : Nat) (cls : BitVec 8) (target : Handle) : Spendable (s.record n) →
      Effect clears s { s with
        records := putRecord s.records n (.forwarded (s.record n).gen cls target), cache := [] }
  | caches (s : State) (c : List CacheEntry) : CacheDid s c → Effect clears s { s with cache := c }
  | clearsAll (s : State) : clears = true → (∀ i, s.moves.get i = .idle) →
      Effect clears s { s with records := [], freeQueue := allSlots, wornCount := 0, cache := [] }
  -- moves
  | opensMove (s : State) (h : Handle) (o : Object) (i : Fin 4) (args : Quad Word) :
      s.cmd = some ⟨.moveBegin, args, .single⟩ → s.record h.slot = .live h.gen o → o.pins = 0#8 →
      moveBeginEntry s h.slot args.at1 o = .ok i → Effect clears s (s.openMove h o i args.at1)
  | endsMove (s : State) (n : Nat) (new : Word) (k : Nat) (base : Word) (i : Fin 4) (entry : MoveEntry) :
      s.moves.get i = .copying n new k → base = (s.record n).base ∨ base = new →
      entry = .idle ∨ entry = .lapsed n → Effect clears s (s.endMove n base i entry)
  | forgetsLapse (s : State) (i : Fin 4) (n : Nat) : s.moves.get i = .lapsed n →
      Effect clears s { s with moves := s.moves.set i .idle }
  -- walk engines
  | engineWalks (s : State) (e : EngineId) (r : LinkRequest) (p : WalkProgress) :
      requestOf (s.engine e) = some r → 1 ≤ p.hops → p.hops ≤ p.limit → EngineLimit s e p.limit →
      Effect clears s (s.putEngine e (.walking r p))
  | engineAnswers (s : State) (e : EngineId) (r : LinkRequest) (x : WalkResult) (next : Option Shortcut) :
      requestOf (s.engine e) = some r → EngineReports s e x.hops →
      Effect clears s ((s.place r x).putEngine e (restingEngine next))
  | engineParks (s : State) (e : EngineId) (r : LinkRequest) (n : Nat) (next : Option Shortcut) :
      requestOf (s.engine e) = some r → s.parkRoom = true → (∃ g o, s.record n = .moving g o) →
      Effect clears s ((s.park r n).putEngine e (restingEngine next))
  | engineIdles (s : State) (e : EngineId) (c : Shortcut) : s.engine e = .shortcut c →
      Effect clears s (s.putEngine e .idle)
  | engineTakes (s : State) (e : EngineId) (r : LinkRequest) (released looked : List LinkRequest)
      (x : Engine) : s.engine e = .idle → TakenFrom s r released looked →
      x = .opening r ∨ x = .unpinning r →
      Effect clears s ({ s with releaseQueue := released, lookupQueue := looked }.putEngine e x)
  | takeAnswered (s : State) (r : LinkRequest) (released looked : List LinkRequest) (x : WalkResult) :
      TakenFrom s r released looked → x.hops = 0 →
      Effect clears s ({ s with releaseQueue := released, lookupQueue := looked }.place r x)
  -- the link
  | gateOpens (s : State) : Effect clears s { s with gate := .opened }
  | gateDrains (s : State) : Effect clears s { s with gate := .draining }
  | gateCloses (s : State) : s.drained = true → Effect clears s { s with gate := .closed }
  | requestAccepted (s : State) (r : LinkRequest) : s.gate = .opened →
      (s.ports.get r.port).credits ≠ 0 → r.tag ∉ (s.ports.get r.port).tags →
      Effect clears s (s.acceptRequest r)
  | responseAccepted (s : State) (r : Response) (rest : List Response) : s.responses = r :: rest →
      Effect clears s { s with
        responses := rest
        ports := s.ports.set r.port
          ⟨(s.ports.get r.port).credits + 1, (s.ports.get r.port).tags.erase r.tag⟩ }
  -- the settings
  | portDomain (s : State) (p : Fin 4) (d : Nat) : 1 ≤ d → d ≤ 15 →
      Effect clears s { s with portDomains := s.portDomains.set p (BitVec.ofNat 4 d) }
  | configField (s : State) (f v : Nat) : configInRange f v = true →
      Effect clears s { s with config := s.config.write f v }
  -- the Move Timer
  | clock (s : State) : s.cycles + 1 < s.interval → Effect clears s { s with cycles := s.cycles + 1 }
  | tick (s : State) : Effect clears s s.deliverTick
  | expiryRecorded (s : State) (i : Fin 4) (rest : List (Fin 4)) : s.expired = i :: rest →
      Effect clears s { s with
        expired := rest
        pendingExpiries := if s.pendingExpiries.contains i then s.pendingExpiries
          else s.pendingExpiries ++ [i] }
  | expiryServed (s : State) (i : Fin 4) (rest : List (Fin 4)) : s.expiries = i :: rest →
      Effect clears s { s with pendingExpiries := rest, expired := [] }
  -- the Sweep Unit
  | sweepStarts (s : State) (sel : Selection) : selectionOk sel = true →
      Effect clears s { s with sweep := startedSweep sel }
  | sweepStops (s : State) : s.sweep.state = .running →
      Effect clears s { s with sweep := { s.sweep with state := .stopping } }
  | sweepVisits (s : State) (u : SweepUnit) : s.sweep.state ≠ .idle → Counted s.sweep u →
      Effect clears s { s with sweep := u.advanced }
  -- resets
  | powersOn (s : State) (phase : Phase) : clears = true → Effect clears s { s.powerOn with phase := phase }
  | resetsWindow (s : State) : clears = true →
      Effect clears s { s.windowResetState with phase := .resetting }

/-- A predicate that every effect keeps. -/
def ClosedUnder (clears : Bool) (P : State → Prop) : Prop := ∀ ⦃s t⦄, Effect clears s t → P s → P t

/-! ### Every event is a chain of effects -/

namespace ClosedUnder

variable {clears : Bool} {P : State → Prop}

/-- Other values in fields that no law reads. -/
theorem plain (h : ClosedUnder clears P) (s : State) (phase : Phase) (client : Client)
    (epoch : BitVec 16) (args : Quad Word) (results : Results) (o : OutcomeCode) (code : BitVec 8)
    (events enables : BitVec 6) (acks : Quad (Option AckResult)) (hs : P s) :
    P { s with
      phase := phase, lastGranted := client, epoch := epoch, args := args, results := results
      lastOutcome := o, lastCommand := code, events := events, eventEnable := enables, acks := acks } :=
  h (.plain s phase client epoch args results o code events enables acks) hs

theorem raise (h : ClosedUnder clears P) (s : State) (e : Event) (hs : P s) : P (s.raise e) :=
  h.plain s _ _ _ _ _ _ _ _ _ _ hs

theorem complete (h : ClosedUnder clears P) (s : State) (c : BitVec 8) (o : OutcomeCode) (x : Results)
    (hs : P s) : P (s.complete c o x) :=
  h.plain { s with cmd := none } _ _ _ _ _ _ _ _ _ _ (h (.cmdEnds s) hs)

theorem finish (h : ClosedUnder clears P) (s : State) (k : Cmd) (o : OutcomeCode) (hs : P s) :
    P (s.finish k o) := h.complete s _ _ _ hs

theorem testDrain (h : ClosedUnder clears P) (s : State) (hs : P s) : P s.testDrain := by
  rcases s.testDrain_cases with e | ⟨_, hd, e⟩ <;> rw [e]
  · exact hs
  · exact h.plain { s with gate := .closed } _ _ _ _ _ _ _ _ _ _ (h (.gateCloses s hd) hs)

theorem closeGate (h : ClosedUnder clears P) (s : State) (hs : P s) : P s.closeGate := by
  rw [State.closeGate]
  split
  · exact h.testDrain _ (h (.gateDrains s) hs)
  · exact hs
  · exact hs

/-- CREATE's access: the effect on the directory, with FREE_LOW and the completion. -/
theorem createBody (h : ClosedUnder clears P) (s : State) (args : Quad Word)
    (hc : s.cmd = some ⟨.create, args, .single⟩) (hs : P s) : P (createBody args s) := by
  rcases createBody_cases args s with ⟨_, e⟩ | ⟨n, rest, v, x, hq, e⟩ <;> rw [e]
  · exact h.finish _ _ _ hs
  · exact h.complete _ _ _ _ (h.plain _ _ _ _ _ _ _ _ v _ _ (h (.allocates s n rest args hc hq) hs))

/-- The retire effect of RETIRE and of a sweep. -/
theorem retire (h : ClosedUnder clears P) (s : State) (n : Nat) (hr : Spendable (s.record n))
    (hs : P s) : P (s.retire n) := by
  rw [s.retire_eq n (hr.imp_left fun ⟨g, o, hl, _⟩ => ⟨g, o, hl⟩)]
  exact h (.retires s n hr) hs

theorem retireBody (h : ClosedUnder clears P) (s : State) (args : Quad Word) (hs : P s) :
    P (retireBody args s) := by
  rcases retireBody_cases args s with ⟨o, e⟩ | ⟨n, x, hr, e⟩ <;> rw [e]
  · exact h.finish _ _ _ hs
  · exact h.complete _ _ _ _ (h.retire s n hr hs)

/-- A LIVE record with another pin count. -/
theorem repinned (h : ClosedUnder clears P) (s : State) (n : Nat) (g : BitVec 8) (o : Object)
    (p : BitVec 8) (hr : s.record n = .live g o) (hs : P s) :
    P (s.setRecord n (.live g { o with pins := p })) :=
  h (.rewrites s n _ (by rw [hr]; exact .live g o _ rfl)) hs

theorem pinBody (h : ClosedUnder clears P) (s : State) (args : Quad Word) (hs : P s) :
    P (pinBody args s) := by
  rcases pinBody_cases args s with ⟨o, e⟩ | ⟨n, g, o, x, hr, _, e⟩ <;> rw [e]
  · exact h.finish _ _ _ hs
  · exact h.complete _ _ _ _ (h.repinned s n g o _ hr hs)

theorem unpinBody (h : ClosedUnder clears P) (s : State) (args : Quad Word) (hs : P s) :
    P (unpinBody args s) := by
  rcases unpinBody_cases args s with ⟨o, e⟩ | ⟨n, g, o, x, hr, _, e⟩ <;> rw [e]
  · exact h.finish _ _ _ hs
  · exact h.complete _ _ _ _ (h.repinned s n g o _ hr hs)

theorem clearBody (h : ClosedUnder clears P) (s : State) (args : Quad Word) (hc : clears = true)
    (hs : P s) : P (clearBody args s) := by
  rcases clearBody_cases args s with ⟨x, e⟩ | ⟨hb, x, e⟩ <;> rw [e]
  · exact h.complete _ _ _ _ hs
  · obtain ⟨_, _, hm⟩ := clearBlockers_zero s hb
    exact h.complete _ _ _ _ (h.plain _ _ _ 0#16 _ _ _ _ _ _ _ (h (.clearsAll s hc hm) hs))

/-- ALTER that selects the class alone leaves the extent group as it is, so the cache stays true. -/
theorem alteredObject_ext (w : Word) (o : Object)
    (hw : ((alterSelect w).rights || (alterSelect w).shared || (alterSelect w).domain) = false) :
    (alteredObject w o).ext = o.ext := by
  simp only [Bool.or_eq_false_iff] at hw
  obtain ⟨⟨hr, hsh⟩, hd⟩ := hw
  simp [alteredObject, hr, hsh, hd]

theorem alterBody (h : ClosedUnder clears P) (s : State) (args : Quad Word) (hs : P s) :
    P (alterBody args s) := by
  rcases alterBody_cases args s with ⟨o, e⟩ | ⟨n, o, r, hr, e⟩ <;> rw [e]
  · exact h.finish _ _ _ hs
  · refine h.finish _ _ _ ?_
    rw [State.alterCacheAction]
    split
    · refine h (.alters s n r ?_) hs
      rcases hr with ⟨g, hr, rfl⟩ | ⟨g, hr, rfl⟩ <;> rw [hr]
      · exact .live g o _ rfl rfl
      · exact .moving g o _ rfl rfl rfl
    · next hw =>
      have hext := alteredObject_ext args.at1 o (Bool.eq_false_iff.mpr hw)
      refine h (.rewrites s n r ?_) hs
      rcases hr with ⟨g, hr, rfl⟩ | ⟨g, hr, rfl⟩ <;> rw [hr]
      · exact .live g o _ hext
      · exact .moving g o _ hext rfl

theorem resizeBody (h : ClosedUnder clears P) (s : State) (args : Quad Word)
    (hc : s.cmd = some ⟨.resize, args, .single⟩) (hs : P s) : P (resizeBody args s) := by
  rcases resizeBody_cases args s with ⟨o, e⟩ | ⟨n, g, o, x, hr, hf, e⟩ <;> rw [e]
  · exact h.finish _ _ _ hs
  · exact h.complete _ _ _ _ (h (.resizes s n g o args hc hr hf) hs)

/-- An empty cache shows nothing. -/
theorem cacheDid_nil (s : State) : CacheDid s [] :=
  ⟨fun _ he => absurd he List.not_mem_nil, Or.inl (Nat.zero_le _), fun _ => List.nodup_nil⟩

theorem cacheEnBody (h : ClosedUnder clears P) (s : State) (args : Quad Word) (hs : P s) :
    P (cacheEnBody args s) := by
  rw [Machine.cacheEnBody]
  refine h.complete _ _ _ _ ?_
  cases args.at1.toNat == 1
  · exact h (.configField _ 2 0 rfl) (h (.caches s [] (cacheDid_nil s)) hs)
  · exact h (.configField s 2 1 rfl) hs

theorem finalBody (h : ClosedUnder clears P) (s : State) (source target : Handle)
    (snapshot : BitVec 16) (final : Handle) (k : Nat) (hs : P s) :
    P (finalBody source target snapshot final k s) := by
  rcases finalBody_cases source target snapshot final k s with ⟨o, e⟩ | ⟨cls, x, hr, _, e⟩ <;> rw [e]
  · exact h.finish _ _ _ hs
  · have hsp : Spendable (s.record source.slot) ∧ (s.record source.slot).gen = source.gen := by
      rcases hr with ⟨o, hr, hp, _⟩ | ⟨old, hr⟩ <;> rw [hr]
      · exact ⟨Or.inl ⟨_, o, rfl, hp⟩, rfl⟩
      · exact ⟨Or.inr ⟨_, _, _, rfl⟩, rfl⟩
    have hf := h (.forwards s source.slot cls target hsp.1) hs
    rw [hsp.2] at hf
    exact h.complete _ _ _ _ (h.plain _ _ _ (s.epoch + 1#16) _ _ _ _ _ _ _ hf)

theorem moveBeginBody (h : ClosedUnder clears P) (s : State) (args : Quad Word)
    (hc : s.cmd = some ⟨.moveBegin, args, .single⟩) (hs : P s) : P (moveBeginBody args s) := by
  rcases moveBeginBody_cases args s with ⟨o, e⟩ | ⟨hd, o, i, x, hr, hp, hi, e⟩ <;> rw [e]
  · exact h.finish _ _ _ hs
  · exact h.complete _ _ _ _ (h (.opensMove s hd o i args hc hr hp hi) hs)

theorem endMoveBody (h : ClosedUnder clears P) (s : State) (k : Cmd) (base : Word → Word → Word)
    (args : Quad Word) (hb : ∀ old new : Word, base old new = old ∨ base old new = new) (hs : P s) :
    P (endMoveBody k base args s) := by
  rcases endMoveBody_cases k base args s with ⟨o, e⟩ | ⟨i, n, hi, e⟩ | ⟨i, n, b, remaining, x, hi, e⟩ <;>
    rw [e]
  · exact h.finish _ _ _ hs
  · exact h.finish _ _ _ (h (.forgetsLapse s i n hi) hs)
  · exact h.complete _ _ _ _
      (h (.endsMove s n b remaining _ i .idle hi (hb _ _) (Or.inl rfl)) hs)

/-! ### Walks -/

/-- What an access of a walk does to the directory: one pin, and a cache action (R63). -/
theorem walked (h : ClosedUnder clears P) {mayPark : Bool} {limit bound : Nat} {s : State}
    {x : State × WalkStep} (hx : WalkDid mayPark limit bound s x) (hs : P s) : P x.1 := by
  have hc : P { s with cache := x.1.cache } := h (.caches s _ hx.cache) hs
  rw [hx.frame]
  rcases hx.records with hr | ⟨n, g, o, hr, _, hm⟩
  · rw [hr]
    exact hc
  · rw [hm]
    exact h.repinned { s with cache := x.1.cache } n g o _ hr hc

/-- The Command Unit after an access of LOOKUP's walk (R77, R78). -/
theorem commandHandOn (h : ClosedUnder clears P) {limit bound : Nat} {s : State} {c : Command}
    {x : State × WalkStep} (r : WalkRequest) (hc : s.cmd = some c) (hx : WalkDid false limit bound s x)
    (hlimit : CommandLimit s c limit) (hbound : ∀ k, k ≤ bound → CommandReports s c k) (hs : P s) :
    P (commandHandOn c r x) := by
  have hw := h.walked hx hs
  have hcmd : x.1.cmd = some c := by rw [hx.frame]; exact hc
  have hconfig : x.1.config = s.config := by rw [hx.frame]
  rw [Machine.commandHandOn]
  split
  case h_1 p hp =>
    obtain ⟨h1, h2, h3⟩ := hx.hop p hp
    refine h (.cmdWalks x.1 c r p hcmd h1 h2 ?_) hw
    rw [h3, CommandLimit, hconfig]
    exact hlimit
  case h_2 result hr => exact h.complete _ _ _ _ hw
  case h_3 result sc hr =>
    refine h (.cmdShortcuts x.1 c sc result hcmd ?_) hw
    rw [CommandReports, hconfig]
    exact hbound _ (hx.ended _ _ hr)
  case h_4 => exact hw

/-- A walk engine that ends or parks its walk, and then tests the drain condition if it is IDLE (R79). -/
theorem settleEngine (h : ClosedUnder clears P) (s : State) (e : EngineId) (next : Option Shortcut)
    (hs : P (s.putEngine e (restingEngine next))) : P (s.settleEngine e next) := by
  cases next with
  | none =>
    rw [State.settleEngine, State.setEngine_eq_putEngine]
    exact h.testDrain _ hs
  | some c =>
    rw [State.settleEngine, State.setEngine_eq_putEngine]
    exact hs

/-- A walk engine after an access of its walk (R79, R81, R110). -/
theorem engineHandOn (h : ClosedUnder clears P) {limit bound : Nat} {s : State} {e : EngineId}
    {r : LinkRequest} {x : State × WalkStep} (hr : requestOf (s.engine e) = some r)
    (hx : WalkDid true limit bound s x) (hlimit : EngineLimit s e limit)
    (hbound : ∀ k, k ≤ bound → EngineReports s e k) (hs : P s) : P (engineHandOn e r x) := by
  have hw := h.walked hx hs
  have hengine : x.1.engine e = s.engine e := by rw [hx.frame]; cases e <;> rfl
  have hconfig : x.1.config = s.config := by rw [hx.frame]
  have hheld : requestOf (x.1.engine e) = some r := by rw [hengine]; exact hr
  rw [Machine.engineHandOn]
  split
  case h_1 p hp =>
    obtain ⟨h1, h2, h3⟩ := hx.hop p hp
    rw [State.setEngine_eq_putEngine]
    refine h (.engineWalks x.1 e r p hheld h1 h2 ?_) hw
    rw [h3, EngineLimit, hconfig, hengine]
    exact hlimit
  case h_2 result next hp =>
    refine h.settleEngine _ _ _ (h (.engineAnswers x.1 e r result next hheld ?_) hw)
    rw [EngineReports, hconfig, hengine]
    exact hbound _ (hx.ended _ _ hp)
  case h_3 n next hp =>
    obtain ⟨_, hroom, g, o, hm⟩ := hx.parked _ _ hp
    refine h.settleEngine _ _ _ (h (.engineParks x.1 e r n next hheld ?_ ⟨g, ?_⟩) hw)
    · rw [hx.frame]
      exact hroom
    · rcases hx.records with hsame | ⟨k, g', o', hl, _, hput⟩
      · exact ⟨o, by rw [State.record_eq, hsame]; exact hm⟩
      · refine ⟨o, ?_⟩
        have hne : n ≠ k := by rintro rfl; rw [hm] at hl; cases hl
        rw [State.record_eq, hput, recordIn_putRecord_other _ _ _ _ hne]
        exact hm

/-- The shortcut access: nothing, or another forward target (R73). -/
theorem applyShortcut (h : ClosedUnder clears P) (s : State) (c : Shortcut) (hs : P s) :
    P (applyShortcut c s) := by
  rcases applyShortcut_cases c s with e | ⟨g, k, target, hr, e⟩ <;> rw [e]
  · exact hs
  · exact h (.rewrites s _ _ (by rw [hr]; exact .forwarded g k target k _)) hs

theorem applyShortcut_engine (s : State) (c : Shortcut) (e : EngineId) :
    (Machine.applyShortcut c s).engine e = s.engine e := by
  rcases applyShortcut_cases c s with h | ⟨g, k, target, _, h⟩ <;> rw [h]
  exact State.setRecord_engine _ _ _ _

/-- A link UNPIN's access: one pin less or none, and its response (R143). -/
theorem linkUnpin (h : ClosedUnder clears P) (s : State) (e : EngineId) (r : LinkRequest)
    (hr : s.engine e = .unpinning r) (hs : P s) : P ((linkUnpinBody r s).settleEngine e none) := by
  refine h.settleEngine _ _ _ ?_
  have hheld : requestOf (s.engine e) = some r := by rw [hr, requestOf]
  have h0 : ∀ t : State, EngineReports t e 0 := fun t => Or.inl (Nat.zero_le _)
  rcases linkUnpinBody_cases r s with ⟨o, b⟩ | ⟨n, g, o, hl, _, b⟩ <;> rw [b]
  · exact h (.engineAnswers s e r _ none hheld (h0 s)) hs
  · exact h (.engineAnswers (s.setRecord n _) e r _ none (by rw [State.setRecord_engine]; exact hheld)
      (h0 _)) (h.repinned s n g o _ hl hs)

/-- An IDLE engine takes a request from either queue (R80, R141). -/
theorem takeRequest (h : ClosedUnder clears P) (s : State) (e : EngineId) (r : LinkRequest)
    (released looked : List LinkRequest) (he : s.engine e = .idle) (hr : TakenFrom s r released looked)
    (hs : P s) :
    P (takeRequest e r { s with releaseQueue := released, lookupQueue := looked }) := by
  rw [Machine.takeRequest]
  split
  · exact h (.takeAnswered s r released looked _ hr rfl) hs
  · split <;> rw [State.setEngine_eq_putEngine]
    · exact h (.engineTakes s e r released looked _ he hr (Or.inr rfl)) hs
    · exact h (.engineTakes s e r released looked _ he hr (Or.inl rfl)) hs

/-! ### The Move Timer and the Sweep Unit -/

theorem expireEntry (h : ClosedUnder clears P) (s : State) (i : Fin 4) (rest : List (Fin 4))
    (hx : s.expiries = i :: rest) (hs : P s) :
    P { s.expireEntry i with pendingExpiries := rest, expired := [] } := by
  rcases s.expireEntry_cases i with e | ⟨n, b, hi, e⟩ <;> rw [e]
  · exact h (.expiryServed s i rest hx) hs
  · exact h (.expiryServed ((s.endMove n (s.record n).base i (.lapsed n)).raise .moveLapsed) i rest hx)
      (h.raise _ _ (h (.endsMove s n b 0 _ i _ hi (Or.inl rfl) (Or.inr rfl)) hs))

theorem withClass_rewrites (r : Record) (c : BitVec 8) : Rewrites r (r.withClass c) := by
  cases r with
  | free g => exact .same _
  | live g o => exact .live g o _ rfl
  | moving g o => exact .moving g o _ rfl rfl
  | forwarded g k t => exact .forwarded g k t c t
  | worn => exact .same _

/-- The end of a visit: the cursor raised, and SWEEP_END at the end of the sweep (R125). -/
theorem advanceSweep_eq_advanced (s : State) :
    ∃ v, s.advanceSweep = { s with sweep := s.sweep.advanced, events := v } := by
  rw [State.advanceSweep, SweepUnit.advanced]
  dsimp only
  split
  · exact ⟨_, rfl⟩
  · split
    · exact ⟨_, rfl⟩
    · exact ⟨_, rfl⟩

/-- The action on a matched record: the record written or not, with the counters it leaves (R126 to
R128). -/
theorem sweepAct (h : ClosedUnder clears P) (s : State) (n : Nat) (hs : P s) :
    ∃ t u, s.sweepAct n = { t with sweep := u } ∧ t.sweep = s.sweep ∧ Counted s.sweep u ∧ P t := by
  rw [State.sweepAct]
  dsimp only
  split
  case h_1 ha => exact ⟨s, _, rfl, rfl, .counted ha, hs⟩
  case h_2 ha =>
    split
    · next hr =>
      exact ⟨s.retire n, _, rfl, by simp, .acted (by rw [ha]; decide),
        h.retire s n (sweepRetires_true _ hr) hs⟩
    · exact ⟨s, _, rfl, rfl, .skipped ha, hs⟩
  case h_3 ha =>
    exact ⟨s.setRecord n _, _, rfl, rfl, .acted (by rw [ha]; decide),
      h (.rewrites s n _ (withClass_rewrites _ _)) hs⟩

theorem visitBody (h : ClosedUnder clears P) (s : State) (hw : s.sweep.state ≠ .idle) (hs : P s) :
    P (visitBody s) := by
  have ends : ∀ t u, P t → t.sweep = s.sweep → Counted s.sweep u →
      P ({ t with sweep := u } : State).advanceSweep := by
    intro t u ht he hu
    obtain ⟨v, hv⟩ := advanceSweep_eq_advanced { t with sweep := u }
    rw [hv]
    rw [← he] at hw hu
    exact h.plain _ _ _ _ _ _ _ _ v _ _ (h (.sweepVisits t u hw hu) ht)
  rw [Machine.visitBody]
  split
  · obtain ⟨t, u, e, ht, hu, hp⟩ := h.sweepAct s s.sweep.cursor hs
    rw [e]
    exact ends t u hp ht hu
  · exact ends s s.sweep hs rfl .unmatched

end ClosedUnder

/-- What effects keep, every event keeps. -/
theorem closed_kept {clears : Bool} {P : State → Prop} (h : ClosedUnder clears P) : Kept clears P where
  grant s c hs := h.plain s _ c _ _ _ _ _ _ _ _ hs
  raise := h.raise
  complete := h.complete
  begins s k args phase hb hs := h (.cmdBegins s k args phase hb) hs
  writeArgs s a hs := h.plain s _ _ _ a _ _ _ _ _ _ hs
  events s v hs := h.plain s _ _ _ _ _ _ _ v _ _ hs
  enables s v hs := h.plain s _ _ _ _ _ _ _ _ v _ hs
  acks s a hs := h.plain s _ _ _ _ _ _ _ _ _ a hs
  sweepStart s sel hsel _ hs := h (.sweepStarts s sel hsel) hs
  sweepStop s hr hs := h (.sweepStops s hr) hs
  linkOpen s hs := h (.gateOpens s) hs
  closeGate := h.closeGate
  portDomain s p d h1 h2 hs := h (.portDomain s p d h1 h2) hs
  config s f v hr hs := h (.configField s f v hr) hs
  create := h.createBody
  retire s args _ hs := h.retireBody s args hs
  pin s args _ hs := h.pinBody s args hs
  unpin s args _ hs := h.unpinBody s args hs
  clear hc s args _ hs := h.clearBody s args hc hs
  alter s args _ hs := h.alterBody s args hs
  resize := h.resizeBody
  cacheEn s args _ hs := h.cacheEnBody s args hs
  fromCheck s c _ _ _ _ hs := h (.cmdForwards s c _ rfl) hs
  checkHop s c _ _ _ _ _ _ _ _ hs := h (.cmdForwards s c _ rfl) hs
  checkPass s c _ _ _ _ _ _ _ hs := h (.cmdForwards s c _ rfl) hs
  forwardFinal s _ source target snapshot final k _ _ hs := h.finalBody s source target snapshot final k hs
  moveBegin := h.moveBeginBody
  moveEnd s k base args hb _ hs := h.endMoveBody s k base args hb hs
  commandFirst s c r hc _ hs :=
    h.commandHandOn r hc (walkFirst_did false r s) (Or.inl rfl) (fun _ hk => Or.inl hk) hs
  commandHop s c r p hc hp hs :=
    h.commandHandOn r hc (walkNext_did false r p s) (Or.inr ⟨r, p, hp, rfl⟩)
      (fun _ hk => Or.inr ⟨r, p, hp, hk⟩) hs
  commandShortcut s c sc x _ _ hs := h.complete _ _ _ _ (h.applyShortcut s sc hs)
  engineFirst s e r hr hs :=
    h.engineHandOn (by rw [hr, requestOf]) (walkFirst_did true r.req s) (Or.inl rfl)
      (fun _ hk => Or.inl hk) hs
  engineHop s e r p hr hs :=
    h.engineHandOn (by rw [hr, requestOf]) (walkNext_did true r.req p s) (Or.inr ⟨r, p, hr, rfl⟩)
      (fun _ hk => Or.inr ⟨r, p, hr, hk⟩) hs
  engineShortcut s e c hc hs := h.settleEngine _ _ _
    (h (.engineIdles _ e c ((ClosedUnder.applyShortcut_engine s c e).trans hc)) (h.applyShortcut s c hs))
  linkUnpin := h.linkUnpin
  takeReleased s e r rest he hr hs :=
    h.takeRequest s e r rest s.lookupQueue he (Or.inl ⟨hr, rfl⟩) hs
  takeLookup s e r rest he _ hl hs :=
    h.takeRequest s e r s.releaseQueue rest he (Or.inr ⟨rfl, hl⟩) hs
  acceptRequest s r hg hc ht hs := h (.requestAccepted s r hg hc ht) hs
  acceptResponse s r rest hr hs := h.testDrain _ (h (.responseAccepted s r rest hr) hs)
  clock s hc hs := h (.clock s hc) hs
  tick s hs := h (.tick s) hs
  expiry s i rest hx hs := h (.expiryRecorded s i rest hx) hs
  lapse := h.expireEntry
  visit := h.visitBody
  powerOn hc s phase hs := h (.powersOn s phase hc) hs
  windowReset hc s hs := h (.resetsWindow s hc) hs
  windowResetComplete s _ hs := h.plain s .running _ _ _ _ _ _ _ _ _ hs

/-- A law that effects keep, every step keeps; no law reads the queue of what is still to happen. -/
theorem closed_step {P : State → Prop} (h : ClosedUnder true P)
    (hp : ∀ s l, P s → P { s with pending := l }) {s t : State} (hs : P s) (he : step s = .next t) :
    P t := (closed_kept h).step hp s t hs he

/-- No effect touches the queue of what is still to happen (log 1). -/
theorem effect_pending {clears : Bool} {s t : State} (h : Effect clears s t) : t.pending = s.pending := by
  cases h <;> rfl

end Sys2Proof.Machine

/-! ## The directory's laws, kept by every step (chapters 1, 2, 3 and 6)

Each law is judged on the effects that touch a field it reads; every other effect keeps it as it stands. A
law that rests on others is proved together with them. -/

namespace Sys2Proof.Machine

open Sys2Proof Sys2Proof.Safety

/-! ### The states a record can have, before and after an effect -/

/-- The states in which a slot is neither FREE nor WORN. -/
def Record.inUse (r : Record) : Prop := (∀ g, r ≠ .free g) ∧ r ≠ .worn

@[simp] theorem Record.inUse_live (g : BitVec 8) (o : Object) : (Record.live g o).inUse :=
  ⟨fun _ => Record.noConfusion, Record.noConfusion⟩

@[simp] theorem Record.inUse_moving (g : BitVec 8) (o : Object) : (Record.moving g o).inUse :=
  ⟨fun _ => Record.noConfusion, Record.noConfusion⟩

@[simp] theorem Record.inUse_forwarded (g c : BitVec 8) (t : Handle) : (Record.forwarded g c t).inUse :=
  ⟨fun _ => Record.noConfusion, Record.noConfusion⟩

theorem Spendable.inUse {r : Record} (h : Spendable r) : r.inUse := by
  rcases h with ⟨g, o, rfl, _⟩ | ⟨g, c, t, rfl⟩
  · exact Record.inUse_live g o
  · exact Record.inUse_forwarded g c t

/-- What `Rewrites` does to a record that is in use, and that it leaves every other as it is. -/
theorem Rewrites.inUse {r r' : Record} (h : Rewrites r r') : r' = r ∨ (r.inUse ∧ r'.inUse) := by
  cases h with
  | same => exact Or.inl rfl
  | live | moving | forwarded => exact Or.inr ⟨by simp, by simp⟩

theorem Alters.inUse {r r' : Record} (h : Alters r r') : r.inUse ∧ r'.inUse := by
  cases h with
  | live | moving => exact ⟨by simp, by simp⟩

/-- The end of a move makes a MOVING record LIVE, and leaves any other as it is (R113 to R115). -/
theorem Record.endMove_cases (r : Record) (base : Word) :
    r.endMove base = r
      ∨ ∃ g o, r = .moving g o
          ∧ r.endMove base = .live g { o with ext := { o.ext with base := base } } := by
  cases r with
  | moving g o => exact Or.inr ⟨g, o, rfl, rfl⟩
  | free | live | forwarded | worn => exact Or.inl rfl

/-- A retired record is FREE or WORN (R28). -/
theorem spent_cases (g : BitVec 8) : spent g = .worn ∨ spent g = .free (g + 1#8) := by
  rw [spent]
  split
  · exact Or.inl rfl
  · exact Or.inr rfl

theorem spent_ne_moving (g g' : BitVec 8) (o : Object) : spent g ≠ .moving g' o := by
  rcases spent_cases g with h | h <;> rw [h] <;> exact Record.noConfusion

/-- A write of the record that stands there changes nothing that can be read. -/
theorem record_put_self {s t : State} (n : Nat) (ht : t.records = putRecord s.records n (s.record n))
    (k : Nat) : t.record k = s.record k := by
  rw [record_of_put s t n _ ht]
  split
  · next hk => rw [hk]
  · rfl

end Sys2Proof.Machine

namespace Sys2Proof.Safety

open Sys2Proof Sys2Proof.Machine

/-! ### The Record Store's canonical form -/

/-- One record written. -/
theorem StoreLaw.written {s t : State} (h : StoreLaw s) (n : Nat) (r : Record)
    (ht : t.records = putRecord s.records n r) : StoreLaw t := by
  rw [StoreLaw, ht]
  exact Store.wf_putRecord _ _ _ h

theorem storeLaw_closed (clears : Bool) : ClosedUnder clears StoreLaw := by
  intro s t h hs
  cases h with
  | rewrites n r | alters n r => exact StoreLaw.written hs n r rfl
  | resizes n g | allocates n => exact StoreLaw.written hs n (.live _ _) rfl
  | retires n => exact StoreLaw.written hs n (spent _) rfl
  | forwards n => exact StoreLaw.written hs n (.forwarded _ _ _) rfl
  | opensMove hd => exact StoreLaw.written hs hd.slot (.moving _ _) rfl
  | endsMove n => exact StoreLaw.written hs n (Record.endMove _ _) rfl
  | clearsAll | powersOn | resetsWindow => exact Store.wf_nil
  | _ => exact hs

/-- Settles O48: a record is written by `putRecord` alone, or the store is emptied. -/
theorem stepKeepsTheStoreCanonical : Obligations.StepKeepsTheStoreCanonical :=
  fun _ _ hs he => closed_step (storeLaw_closed true) (fun _ _ h => h) hs he

/-! ### The Free Slot Queue and the Worn Count -/

/-- A slot in use lies within 1..4095. -/
theorem QueueLaw.inRange {s : State} (h : QueueLaw s) {n : Nat} (hn : (s.record n).inUse) :
    1 ≤ n ∧ n ≤ 4095 := by
  by_contra hc
  exact hn.1 1#8 (h.2.2.1 n (by omega))

/-- A slot in use is not in the queue. -/
theorem QueueLaw.notQueued {s : State} (h : QueueLaw s) {n : Nat} (hn : (s.record n).inUse) :
    n ∉ s.freeQueue := fun hm => (((h.1 n).mp hm).2.2).elim fun g hg => hn.1 g hg

/-- A queued slot is FREE. -/
theorem QueueLaw.queuedFree {s : State} (h : QueueLaw s) {n : Nat} (hn : n ∈ s.freeQueue) :
    ∃ g, s.record n = .free g := ((h.1 n).mp hn).2.2

/-- The number of WORN slots after the record of slot `n`, not WORN before, has been written. -/
theorem countP_worn_written (s t : State) (n : Nat) (r : Record)
    (hn : 1 ≤ n ∧ n ≤ 4095) (ht : ∀ k, t.record k = if k = n then r else s.record k)
    (hr : s.record n ≠ .worn) :
    (List.range' 1 4095).countP (fun k => t.record k == .worn)
      = (List.range' 1 4095).countP (fun k => s.record k == .worn) + if r = .worn then 1 else 0 := by
  have hmem : n ∈ List.range' 1 4095 := by rw [List.mem_range'_1]; omega
  have hperm := List.perm_cons_erase hmem
  have hnd : (List.range' 1 4095).Nodup := List.nodup_range'
  have hsame : ((List.range' 1 4095).erase n).countP (fun k => t.record k == .worn)
      = ((List.range' 1 4095).erase n).countP (fun k => s.record k == .worn) := by
    refine List.countP_congr fun k hk => ?_
    have hne : k ≠ n := ((List.Nodup.mem_erase_iff hnd).mp hk).1
    rw [ht k, if_neg hne]
  rw [hperm.countP_eq, hperm.countP_eq, List.countP_cons, List.countP_cons, hsame, ht n, if_pos rfl]
  simp [hr]

/-- A slot in use stays in use: neither queue nor count changes. -/
theorem QueueLaw.rewritten {s t : State} (h : QueueLaw s) (n : Nat) (r : Record)
    (hold : (s.record n).inUse) (hnew : r.inUse)
    (ht : t.records = putRecord s.records n r) (hq : t.freeQueue = s.freeQueue)
    (hw : t.wornCount = s.wornCount) : QueueLaw t := by
  have hrec := record_of_put s t n r ht
  have hn := h.inRange hold
  obtain ⟨hmem, hnd, hout, hcount⟩ := h
  refine ⟨fun k => ?_, hq ▸ hnd, fun k hk => ?_, ?_⟩
  · rw [hq, hmem k, hrec k]
    by_cases hk : k = n
    · subst hk
      rw [if_pos rfl]
      exact ⟨fun ⟨_, _, g, hg⟩ => absurd hg (hold.1 g), fun ⟨_, _, g, hg⟩ => absurd hg (hnew.1 g)⟩
    · rw [if_neg hk]
  · rw [hrec k, if_neg (by omega)]
    exact hout k hk
  · rw [hw, hcount, countP_worn_written s t n r hn hrec hold.2, if_neg hnew.2, Nat.add_zero]

/-- The law reads the records one by one, the queue and the count. -/
theorem QueueLaw.congr {s t : State} (h : QueueLaw s) (hr : ∀ k, t.record k = s.record k)
    (hq : t.freeQueue = s.freeQueue) (hw : t.wornCount = s.wornCount) : QueueLaw t := by
  simp only [QueueLaw, hr, hq, hw]
  exact h

/-- The head slot leaves the queue and comes into use (R25). -/
theorem QueueLaw.allocated {s t : State} (h : QueueLaw s) (n : Nat) (rest : List Nat) (r : Record)
    (hs : s.freeQueue = n :: rest) (hnew : r.inUse) (ht : t.records = putRecord s.records n r)
    (hq : t.freeQueue = rest) (hw : t.wornCount = s.wornCount) : QueueLaw t := by
  have hrec := record_of_put s t n r ht
  obtain ⟨g, hfree⟩ := h.queuedFree (n := n) (by rw [hs]; exact List.mem_cons_self)
  obtain ⟨hmem, hnd, hout, hcount⟩ := h
  rw [hs] at hmem hnd
  have hn : 1 ≤ n ∧ n ≤ 4095 :=
    ⟨((hmem n).mp List.mem_cons_self).1, ((hmem n).mp List.mem_cons_self).2.1⟩
  obtain ⟨hnot, hnd⟩ := List.nodup_cons.mp hnd
  refine ⟨fun k => ?_, hq ▸ hnd, fun k hk => ?_, ?_⟩
  · rw [hq, hrec k]
    by_cases hk : k = n
    · subst hk
      rw [if_pos rfl]
      exact ⟨fun hm => absurd hm hnot, fun ⟨_, _, g, hg⟩ => absurd hg (hnew.1 g)⟩
    · rw [if_neg hk, ← hmem k, List.mem_cons]
      exact ⟨Or.inr, fun hm => hm.resolve_left hk⟩
  · rw [hrec k, if_neg (by omega)]
    exact hout k hk
  · rw [hw, hcount, countP_worn_written s t n r hn hrec (by rw [hfree]; exact Record.noConfusion),
      if_neg hnew.2, Nat.add_zero]

/-- A retirement puts the slot at the tail of the queue, or makes it WORN and counts it (R28). -/
theorem QueueLaw.retired {s t : State} (h : QueueLaw s) (n : Nat) (hold : (s.record n).inUse)
    (ht : t.records = putRecord s.records n (spent (s.record n).gen))
    (hq : t.freeQueue = if (s.record n).gen = 255#8 then s.freeQueue else s.freeQueue ++ [n])
    (hw : t.wornCount = if (s.record n).gen = 255#8 then s.wornCount + 1 else s.wornCount) :
    QueueLaw t := by
  have hrec := record_of_put s t n _ ht
  have hn := h.inRange hold
  have hnot := h.notQueued hold
  obtain ⟨hmem, hnd, hout, hcount⟩ := h
  have hout' : ∀ k, k = 0 ∨ 4095 < k → t.record k = resetRecord := fun k hk => by
    rw [hrec k, if_neg (by omega)]
    exact hout k hk
  have hcount' := countP_worn_written s t n _ hn hrec hold.2
  by_cases hg : (s.record n).gen = 255#8
  · rw [if_pos hg] at hq hw
    have hspent : spent (s.record n).gen = .worn := if_pos hg
    rw [hspent] at hrec
    refine ⟨fun k => ?_, hq ▸ hnd, hout', by rw [hw, hcount, hcount', if_pos hspent]⟩
    rw [hq, hmem k, hrec k]
    by_cases hk : k = n
    · subst hk
      rw [if_pos rfl]
      exact ⟨fun ⟨_, _, g, hf⟩ => absurd hf (hold.1 g), fun ⟨_, _, _, hf⟩ => by cases hf⟩
    · rw [if_neg hk]
  · rw [if_neg hg] at hq hw
    have hspent : spent (s.record n).gen = .free ((s.record n).gen + 1#8) := if_neg hg
    rw [hspent] at hrec hcount'
    refine ⟨fun k => ?_, ?_, hout', by rw [hw, hcount, hcount', if_neg Record.noConfusion]; rfl⟩
    · rw [hq, hrec k, List.mem_append, List.mem_singleton]
      by_cases hk : k = n
      · subst hk
        rw [if_pos rfl]
        exact ⟨fun _ => ⟨hn.1, hn.2, _, rfl⟩, fun _ => Or.inr rfl⟩
      · rw [if_neg hk, ← hmem k]
        exact ⟨fun hm => hm.resolve_right hk, Or.inl⟩
    · rw [hq]
      exact List.nodup_append'.mpr ⟨hnd, List.nodup_singleton n, by simpa using hnot⟩

/-- The directory at its reset contents (R20, R36). -/
theorem QueueLaw.cleared {t : State} (hr : t.records = []) (hq : t.freeQueue = allSlots)
    (hw : t.wornCount = 0) : QueueLaw t := by
  have hrec : ∀ k, t.record k = .free 1#8 := fun k => by rw [State.record_eq, hr, recordIn_nil]
  refine ⟨fun n => ?_, ?_, fun n _ => hrec n, ?_⟩
  · simp only [hq, allSlots, Config.lastSlot, List.mem_range'_1, hrec, Record.free.injEq, exists_eq', and_true]
    omega
  · rw [hq]
    exact List.nodup_range'
  · rw [hw, eq_comm, List.countP_eq_zero]
    intro k _
    rw [hrec k]
    decide

theorem queueLaw_closed (clears : Bool) : ClosedUnder clears QueueLaw := by
  intro s t h hs
  cases h with
  | rewrites n r hr =>
    rcases hr.inUse with rfl | ⟨ho, hn⟩
    · exact hs.congr (record_put_self n rfl) rfl rfl
    · exact hs.rewritten n r ho hn rfl rfl rfl
  | alters n r hr => exact hs.rewritten n r hr.inUse.1 hr.inUse.2 rfl rfl rfl
  | resizes n g o args _ hr _ =>
    exact hs.rewritten n _ (by rw [hr]; exact Record.inUse_live g o) (Record.inUse_live _ _) rfl rfl rfl
  | allocates n rest args _ hq =>
    exact hs.allocated n rest _ hq (Record.inUse_live _ _) rfl rfl rfl
  | retires n hr => exact hs.retired n hr.inUse rfl rfl rfl
  | forwards n cls target hr =>
    exact hs.rewritten n _ hr.inUse (Record.inUse_forwarded _ _ _) rfl rfl rfl
  | opensMove hd o i args _ hr =>
    exact hs.rewritten hd.slot _ (by rw [hr]; exact Record.inUse_live _ o) (Record.inUse_moving _ _)
      rfl rfl rfl
  | endsMove n _ _ base =>
    rcases (s.record n).endMove_cases base with he | ⟨g, o, hm, he⟩
    · exact hs.congr (record_put_self n (congrArg (putRecord s.records n) he)) rfl rfl
    · exact hs.rewritten n _ (by rw [hm]; exact Record.inUse_moving g o)
        (by rw [he]; exact Record.inUse_live _ _) rfl rfl rfl
  | clearsAll | powersOn | resetsWindow => exact QueueLaw.cleared rfl rfl rfl
  | _ => exact hs

/-- Settles O49: slot by slot, as records come into use, stay in use, and are retired. -/
theorem stepKeepsTheFreeSlotQueueExact : Obligations.StepKeepsTheFreeSlotQueueExact :=
  fun _ _ hs he => closed_step (queueLaw_closed true) (fun _ _ h => h) hs he

/-! ### Pins of MOVING records -/

/-- One record written, unpinned if it is MOVING. -/
theorem PinLaw.written {s t : State} (h : PinLaw s) (n : Nat) (r : Record)
    (ht : t.records = putRecord s.records n r) (hr : ∀ g o, r = .moving g o → o.pins = 0#8) :
    PinLaw t := by
  intro k g o hk
  rw [record_of_put s t n r ht] at hk
  split at hk
  · exact hr g o hk
  · exact h k g o hk

theorem pinLaw_closed (clears : Bool) : ClosedUnder clears PinLaw := by
  intro s t h hs
  cases h with
  | rewrites n r hr =>
    refine hs.written n r rfl ?_
    rintro g o rfl
    cases he : s.record n with
    | moving g' o' =>
      rw [he] at hr
      cases hr with
      | same => exact hs n g o he
      | moving _ _ _ _ hp => rw [hp]; exact hs n _ _ he
    | free | live | forwarded | worn => rw [he] at hr; cases hr
  | alters n r hr =>
    refine hs.written n r rfl ?_
    rintro g o rfl
    cases he : s.record n with
    | moving g' o' =>
      rw [he] at hr
      cases hr with
      | moving _ _ _ _ _ hp => rw [hp]; exact hs n _ _ he
    | free | live | forwarded | worn => rw [he] at hr; cases hr
  | resizes n | allocates n => exact hs.written n (.live _ _) rfl (by rintro _ _ ⟨⟩)
  | forwards n => exact hs.written n (.forwarded _ _ _) rfl (by rintro _ _ ⟨⟩)
  | retires n => exact hs.written n _ rfl fun g o he => absurd he (spent_ne_moving _ g o)
  | opensMove hd o _ _ _ _ hp => exact hs.written hd.slot (.moving _ o) rfl (by rintro _ _ ⟨⟩; exact hp)
  | endsMove n _ _ base =>
    refine hs.written n _ rfl fun g o he => ?_
    rcases (s.record n).endMove_cases base with hc | ⟨_, _, _, hc⟩ <;> rw [hc] at he
    · exact hs n g o he
    · cases he
  | clearsAll | powersOn | resetsWindow =>
    intro n g o he
    cases he
  | _ => exact hs

/-- Settles O50: a move opens on an unpinned record, and nothing pins a MOVING one. -/
theorem stepKeepsMovingRecordsUnpinned : Obligations.StepKeepsMovingRecordsUnpinned :=
  fun _ _ hs he => closed_step (pinLaw_closed true) (fun _ _ h => h) hs he

end Sys2Proof.Safety

/-! ## The laws of moves, extents, parked requests and the cache, kept by every step (chapters 1, 3 and 6) -/

namespace Sys2Proof.Machine

open Sys2Proof Sys2Proof.Safety

/-! ### MOVING records and COPYING entries under an effect -/

/-- A record in the state MOVING (R6). -/
def Record.isMoving (r : Record) : Prop := ∃ g o, r = .moving g o

@[simp] theorem Record.not_isMoving_free (g : BitVec 8) : ¬ (Record.free g).isMoving := by
  rintro ⟨_, _, ⟨⟩⟩

@[simp] theorem Record.not_isMoving_live (g : BitVec 8) (o : Object) : ¬ (Record.live g o).isMoving := by
  rintro ⟨_, _, ⟨⟩⟩

@[simp] theorem Record.isMoving_moving (g : BitVec 8) (o : Object) : (Record.moving g o).isMoving :=
  ⟨g, o, rfl⟩

@[simp] theorem Record.not_isMoving_forwarded (g c : BitVec 8) (t : Handle) :
    ¬ (Record.forwarded g c t).isMoving := by
  rintro ⟨_, _, ⟨⟩⟩

theorem not_isMoving_spent (g : BitVec 8) : ¬ (spent g).isMoving := by
  rintro ⟨g', o, h⟩
  exact spent_ne_moving g g' o h

theorem Spendable.not_isMoving {r : Record} (h : Spendable r) : ¬ r.isMoving := by
  rcases h with ⟨g, o, rfl, _⟩ | ⟨g, c, t, rfl⟩ <;> simp

theorem Rewrites.isMoving_iff {r r' : Record} (h : Rewrites r r') : r.isMoving ↔ r'.isMoving := by
  cases h <;> simp

theorem Alters.isMoving_iff {r r' : Record} (h : Alters r r') : r.isMoving ↔ r'.isMoving := by
  cases h <;> simp

/-- The extent group under `Rewrites`. -/
theorem Rewrites.object {r r' : Record} (h : Rewrites r r') {o' : Object} (ho : r'.object = some o') :
    ∃ o, r.object = some o ∧ o'.ext = o.ext := by
  cases h with
  | same => exact ⟨o', ho, rfl⟩
  | live g o _ hx => cases ho; exact ⟨o, rfl, hx⟩
  | moving g o _ hx => cases ho; exact ⟨o, rfl, hx⟩
  | forwarded => cases ho

/-- The range of addresses under `Alters`. -/
theorem Alters.object {r r' : Record} (h : Alters r r') {o' : Object} (ho : r'.object = some o') :
    ∃ o, r.object = some o ∧ o'.ext.base = o.ext.base ∧ o'.ext.length = o.ext.length := by
  cases h with
  | live g o _ hb hl => cases ho; exact ⟨o, rfl, hb, hl⟩
  | moving g o _ hb hl => cases ho; exact ⟨o, rfl, hb, hl⟩

/-- What an entry names, it names in both of its states that are not IDLE (R100). -/
@[simp] theorem MoveEntry.names_copying (m n : Nat) (b : Word) (k : Nat) :
    (MoveEntry.copying m b k).names n = true ↔ m = n := by
  simp [MoveEntry.names]

@[simp] theorem MoveEntry.names_lapsed (m n : Nat) : (MoveEntry.lapsed m).names n = true ↔ m = n := by
  simp [MoveEntry.names]

@[simp] theorem MoveEntry.names_idle (n : Nat) : MoveEntry.idle.names n = false := rfl

theorem MoveEntry.names_cases {e : MoveEntry} {n : Nat} (h : e.names n = true) :
    (∃ b k, e = .copying n b k) ∨ e = .lapsed n := by
  cases e with
  | idle => cases h
  | copying m b k => exact Or.inl ⟨b, k, by rw [(names_copying m n b k).mp h]⟩
  | lapsed m => exact Or.inr (by rw [(names_lapsed m n).mp h])

@[simp] theorem State.deliverTick_moves_get (s : State) (i : Fin 4) :
    s.deliverTick.moves.get i = (s.moves.get i).afterTick := by
  fin_cases i <;> rfl

@[simp] theorem MoveEntry.names_afterTick (e : MoveEntry) (n : Nat) : e.afterTick.names n = e.names n := by
  cases e with
  | copying m b k => cases k <;> rfl
  | idle | lapsed => rfl

/-- A tick changes the count of a COPYING entry alone (R103). -/
theorem MoveEntry.afterTick_eq_copying {e : MoveEntry} {n : Nat} {b : Word} {k : Nat}
    (h : e.afterTick = .copying n b k) : ∃ k', e = .copying n b k' := by
  cases e with
  | copying m b' k' => cases k' <;> cases h <;> exact ⟨_, rfl⟩
  | idle | lapsed => cases h

theorem MoveEntry.afterTick_copying (n : Nat) (b : Word) (k : Nat) :
    ∃ k', (MoveEntry.copying n b k).afterTick = .copying n b k' := by
  cases k <;> exact ⟨_, rfl⟩

/-- A request taken leaves the Release Queue no longer than it was. -/
theorem TakenFrom.length_le {s : State} {r : LinkRequest} {released looked : List LinkRequest}
    (h : TakenFrom s r released looked) : released.length ≤ s.releaseQueue.length := by
  rcases h with ⟨h, _⟩ | ⟨h, _⟩ <;> rw [h]
  exact Nat.le_succ _

end Sys2Proof.Machine

namespace Sys2Proof.Safety

open Sys2Proof Sys2Proof.Machine

/-! ### The Move Table -/

/-- Every COPYING entry names a MOVING record (R12). -/
theorem MoveLaw.moving {s : State} (h : MoveLaw s) {i : Fin 4} {n : Nat} {b : Word} {k : Nat}
    (hi : s.moves.get i = .copying n b k) : (s.record n).isMoving := h.2.1 i n b k hi

/-- One record written, MOVING after exactly if it was MOVING before. -/
theorem MoveLaw.written {s t : State} (h : MoveLaw s) (n : Nat) (r : Record)
    (ht : t.records = putRecord s.records n r) (hm : t.moves = s.moves)
    (hr : (s.record n).isMoving ↔ r.isMoving) : MoveLaw t := by
  have hrec : ∀ k, (t.record k).isMoving ↔ (s.record k).isMoving := fun k => by
    rw [record_of_put s t n r ht]
    split
    · next hk => rw [hk, hr]
    · rfl
  obtain ⟨h1, h2, h3⟩ := h
  rw [MoveLaw, hm]
  refine ⟨fun k g o hk => ?_, fun i k b c hi => (hrec k).mpr (h2 i k b c hi), h3⟩
  obtain ⟨g', o', hk'⟩ := (hrec k).mp ⟨g, o, hk⟩
  exact h1 k g' o' hk'

/-- The opening of a move in an IDLE entry, on a LIVE record that no LAPSED entry names (R107). -/
theorem MoveLaw.opened {s : State} (h : MoveLaw s) (hd : Handle) (o : Object) (i : Fin 4) (b : Word)
    (hr : s.record hd.slot = .live hd.gen o) (hlapsed : ∀ j, s.moves.get j ≠ .lapsed hd.slot)
    (hidle : s.moves.get i = .idle) : MoveLaw (s.openMove hd o i b) := by
  have hrec (k : Nat) : (s.openMove hd o i b).record k
      = if k = hd.slot then .moving hd.gen o else s.record k := record_of_put s _ _ _ rfl k
  have hget (j : Fin 4) : (s.openMove hd o i b).moves.get j
      = if j = i then .copying hd.slot b s.config.moveWindow else s.moves.get j :=
    Quad.get_set s.moves i j _
  have hfree (j : Fin 4) : (s.moves.get j).names hd.slot = false := by
    rw [Bool.eq_false_iff]
    intro hn
    rcases MoveEntry.names_cases hn with ⟨b', k, hc⟩ | hl
    · have := h.moving hc
      rw [hr] at this
      exact Record.not_isMoving_live _ _ this
    · exact hlapsed j hl
  obtain ⟨h1, h2, h3⟩ := h
  refine ⟨fun k g o' hk => ?_, fun j k b' c hj => ?_, fun j j' n hn hn' => ?_⟩
  · rw [hrec] at hk
    split at hk
    · next he => exact ⟨i, b, _, by rw [hget, if_pos rfl, he]⟩
    · obtain ⟨j, b', c, hj⟩ := h1 k g o' hk
      refine ⟨j, b', c, ?_⟩
      rw [hget, if_neg, hj]
      rintro rfl
      rw [hidle] at hj
      cases hj
  · rw [hget] at hj
    rw [hrec]
    split at hj
    · cases hj
      exact ⟨_, o, if_pos rfl⟩
    · split
      · exact ⟨_, o, rfl⟩
      · exact h2 j k b' c hj
  · rw [hget] at hn hn'
    split at hn <;> split at hn'
    · next e e' => rw [e, e']
    · next e e' =>
      rw [MoveEntry.names_copying] at hn
      rw [← hn, hfree] at hn'
      cases hn'
    · next e e' =>
      rw [MoveEntry.names_copying] at hn'
      rw [← hn', hfree] at hn
      cases hn
    · exact h3 j j' n hn hn'

/-- The end of a move: its record LIVE, its entry IDLE or LAPSED (R113 to R115). -/
theorem MoveLaw.ended {s : State} (h : MoveLaw s) (n : Nat) (new : Word) (k : Nat) (base : Word)
    (i : Fin 4) (entry : MoveEntry) (hi : s.moves.get i = .copying n new k)
    (he : entry = .idle ∨ entry = .lapsed n) : MoveLaw (s.endMove n base i entry) := by
  have hrec (m : Nat) : (s.endMove n base i entry).record m
      = if m = n then (s.record n).endMove base else s.record m := record_of_put s _ _ _ rfl m
  have hget (j : Fin 4) : (s.endMove n base i entry).moves.get j
      = if j = i then entry else s.moves.get j := Quad.get_set s.moves i j _
  obtain ⟨g, o, hm⟩ := h.moving hi
  obtain ⟨h1, h2, h3⟩ := h
  have hname (j : Fin 4) (m : Nat) (hn : ((s.endMove n base i entry).moves.get j).names m = true) :
      (s.moves.get j).names m = true := by
    rw [hget] at hn
    split at hn
    · next hj =>
      rcases he with rfl | rfl
      · cases hn
      · rw [MoveEntry.names_lapsed] at hn
        rw [hj, hi, MoveEntry.names_copying]
        exact hn
    · exact hn
  refine ⟨fun m g' o' hk => ?_, fun j m b' c hj => ?_, fun j j' m hn hn' =>
    h3 j j' m (hname j m hn) (hname j' m hn')⟩
  · rw [hrec] at hk
    split at hk
    · rw [hm] at hk
      cases hk
    · next hne =>
      obtain ⟨j, b', c, hj⟩ := h1 m g' o' hk
      refine ⟨j, b', c, ?_⟩
      rw [hget, if_neg, hj]
      rintro rfl
      rw [hi] at hj
      cases hj
      exact hne rfl
  · rw [hget] at hj
    split at hj
    · rcases he with rfl | rfl <;> cases hj
    · next hne =>
      rw [hrec, if_neg]
      · exact h2 j m b' c hj
      · rintro rfl
        exact hne (h3 j i m (by rw [hj, MoveEntry.names_copying]) (by rw [hi, MoveEntry.names_copying]))

/-- The acknowledgement of a lapse (R112 case 5). -/
theorem MoveLaw.forgotten {s : State} (h : MoveLaw s) (i : Fin 4) (n : Nat)
    (hi : s.moves.get i = .lapsed n) : MoveLaw { s with moves := s.moves.set i .idle } := by
  have hget (j : Fin 4) : (s.moves.set i .idle).get j = if j = i then .idle else s.moves.get j :=
    Quad.get_set s.moves i j _
  have hname (j : Fin 4) (m : Nat) (hn : ((s.moves.set i .idle).get j).names m = true) :
      (s.moves.get j).names m = true := by
    rw [hget] at hn
    split at hn
    · cases hn
    · exact hn
  obtain ⟨h1, h2, h3⟩ := h
  refine ⟨fun m g o hm => ?_, fun j m b c hj => ?_, fun j j' m hn hn' =>
    h3 j j' m (hname j m hn) (hname j' m hn')⟩
  · obtain ⟨j, b, c, hj⟩ := h1 m g o hm
    refine ⟨j, b, c, ?_⟩
    change (s.moves.set i .idle).get j = _
    rw [hget, if_neg, hj]
    rintro rfl
    rw [hi] at hj
    cases hj
  · change (s.moves.set i .idle).get j = _ at hj
    rw [hget] at hj
    split at hj
    · cases hj
    · exact h2 j m b c hj

/-- A tick keeps every entry's state, slot and new base (R103). -/
theorem MoveLaw.ticked {s : State} (h : MoveLaw s) : MoveLaw s.deliverTick := by
  obtain ⟨h1, h2, h3⟩ := h
  refine ⟨fun n g o hn => ?_, fun i n b k hi => ?_, fun i j n hi hj => ?_⟩
  · obtain ⟨i, b, k, hi⟩ := h1 n g o hn
    obtain ⟨k', hk⟩ := MoveEntry.afterTick_copying n b k
    exact ⟨i, b, k', by rw [State.deliverTick_moves_get, hi, hk]⟩
  · rw [State.deliverTick_moves_get] at hi
    obtain ⟨k', hk⟩ := MoveEntry.afterTick_eq_copying hi
    exact h2 i n b k' hk
  · rw [State.deliverTick_moves_get, MoveEntry.names_afterTick] at hi hj
    exact h3 i j n hi hj

/-- Without records and moves there is nothing to match. -/
theorem MoveLaw.cleared {t : State} (hr : t.records = []) (hm : ∀ i, t.moves.get i = .idle) :
    MoveLaw t := by
  refine ⟨fun n g o hn => ?_, fun i n b k hi => ?_, fun i j n hi => ?_⟩
  · rw [State.record_eq, hr] at hn
    cases hn
  · rw [hm] at hi
    cases hi
  · rw [hm] at hi
    cases hi

/-- The Move Table of a reset (R116). -/
theorem moves_reset (i : Fin 4) : State.reset.moves.get i = .idle := by
  fin_cases i <;> rfl

/-- MOVING records and COPYING entries correspond, with the queue exact. -/
def QueueMoveLaw (s : State) : Prop := QueueLaw s ∧ MoveLaw s

theorem queueMoveLaw_closed (clears : Bool) : ClosedUnder clears QueueMoveLaw := by
  rintro s t h ⟨hq, hs⟩
  refine ⟨queueLaw_closed clears h hq, ?_⟩
  cases h with
  | rewrites n r hr => exact hs.written n r rfl rfl hr.isMoving_iff
  | alters n r hr => exact hs.written n r rfl rfl hr.isMoving_iff
  | resizes n g o args _ hr => exact hs.written n (.live g _) rfl rfl (by rw [hr]; simp)
  | allocates n rest args _ hn =>
    obtain ⟨g, hfree⟩ := hq.queuedFree (n := n) (by rw [hn]; exact List.mem_cons_self)
    exact hs.written n (.live _ _) rfl rfl (by rw [hfree]; simp)
  | retires n hr =>
    exact hs.written n (spent _) rfl rfl (iff_of_false hr.not_isMoving (not_isMoving_spent _))
  | forwards n cls target hr =>
    exact hs.written n (.forwarded _ _ _) rfl rfl
      (iff_of_false hr.not_isMoving (Record.not_isMoving_forwarded _ _ _))
  | opensMove hd o i args _ hr _ hi =>
    obtain ⟨_, hlapsed, hidle⟩ := moveBeginEntry_ok _ _ _ _ _ hi
    exact hs.opened hd o i _ hr hlapsed hidle
  | endsMove n new k base i entry hi _ he => exact hs.ended n new k base i entry hi he
  | forgetsLapse i n hi => exact hs.forgotten i n hi
  | tick => exact hs.ticked
  | clearsAll _ hm => exact MoveLaw.cleared rfl hm
  | powersOn | resetsWindow => exact MoveLaw.cleared rfl moves_reset
  | _ => exact hs

/-- Settles O51: a record becomes MOVING or ceases to be with the entry that names it. -/
theorem stepKeepsMovesAndRecordsMatched : Obligations.StepKeepsMovesAndRecordsMatched :=
  fun _ _ hq hs he => (closed_step (queueMoveLaw_closed true) (fun _ _ h => h) ⟨hq, hs⟩ he).2

/-! ### Extents -/

/-- A record's extent. -/
theorem ExtentLaw.object {s : State} (h : ExtentLaw s) {n : Nat} {o : Object}
    (hn : (s.record n).object = some o) : ExtentOk o.ext.base o.ext.length := h.1 n o hn

/-- One record written, whose range of addresses is the old one, or is legal with no move to change it. -/
theorem ExtentLaw.written {s t : State} (h : ExtentLaw s) (n : Nat) (r : Record)
    (ht : t.records = putRecord s.records n r) (hm : t.moves = s.moves) (hc : t.cmd = s.cmd)
    (hr : ∀ o', r.object = some o' →
      (∃ o, (s.record n).object = some o ∧ o'.ext.base = o.ext.base ∧ o'.ext.length = o.ext.length)
        ∨ (ExtentOk o'.ext.base o'.ext.length ∧ ∀ i b k, s.moves.get i ≠ .copying n b k)) :
    ExtentLaw t := by
  have hrec := record_of_put s t n r ht
  obtain ⟨h1, h2, h3⟩ := h
  rw [ExtentLaw, hc, hm]
  refine ⟨fun k o' hk => ?_, fun i k b c hi => ⟨(h2 i k b c hi).1, fun o' hk => ?_⟩, h3⟩
  · rw [hrec] at hk
    split at hk
    · rcases hr o' hk with ⟨o, ho, hb, hl⟩ | ⟨hok, _⟩
      · rw [hb, hl]
        exact h1 n o ho
      · exact hok
    · exact h1 k o' hk
  · rw [hrec] at hk
    split at hk
    · next he =>
      subst he
      rcases hr o' hk with ⟨o, ho, _, hl⟩ | ⟨_, hno⟩
      · rw [hl]
        exact (h2 i k b c hi).2 o ho
      · exact absurd hi (hno i b c)
    · exact (h2 i k b c hi).2 o' hk

/-- Another command in progress, whose arguments have passed its tests if it is one of the three. -/
theorem ExtentLaw.withCmd {s : State} (h : ExtentLaw s) (x : Option Command)
    (hcreate : ∀ args, x = some ⟨.create, args, .single⟩ → ExtentOk args.at0 args.at1.toNat)
    (hresize : ∀ args, x = some ⟨.resize, args, .single⟩ → legalLength args.at1.toNat = true)
    (hmove : ∀ args, x = some ⟨.moveBegin, args, .single⟩ → args.at1.toNat % 16 = 0) :
    ExtentLaw { s with cmd := x } := by
  obtain ⟨h1, h2, _⟩ := h
  exact ⟨h1, h2, hcreate, hresize, hmove⟩

/-- A command that waits for anything but a single access has no such arguments to keep. -/
theorem ExtentLaw.phased {s : State} (h : ExtentLaw s) (c : Command) (phase : CmdPhase)
    (hp : phase ≠ .single) : ExtentLaw { s with cmd := some { c with phase := phase } } := by
  have absurdly : ∀ {k : Cmd} {args : Quad Word},
      (some { c with phase := phase } : Option Command) ≠ some ⟨k, args, .single⟩ := by
    intro k args he
    simp only [Option.some.injEq, Command.mk.injEq] at he
    exact hp he.2.2
  exact h.withCmd _ (fun _ he => absurd he absurdly) (fun _ he => absurd he absurdly)
    (fun _ he => absurd he absurdly)

/-- The extent of a record that CREATE makes (R24, R25). -/
theorem createArgumentsOk_extentOk {args : Quad Word} (h : createArgumentsOk args = true) :
    ExtentOk args.at0 args.at1.toNat := by
  obtain ⟨h0, h1, h2, h3, h4, _⟩ := (createArgumentsOk_iff args).mp h
  exact ⟨h0, h1, h2, h3, h4⟩

/-- The opening of a move: the new base fits the record's length (R105, R106). -/
theorem ExtentLaw.opened {s : State} (h : ExtentLaw s) (hd : Handle) (o : Object) (i : Fin 4)
    (args : Quad Word) (hc : s.cmd = some ⟨.moveBegin, args, .single⟩)
    (hr : s.record hd.slot = .live hd.gen o)
    (hfits : extentFits args.at1 o.ext.length = true)
    (hno : ∀ j b k, s.moves.get j ≠ .copying hd.slot b k) :
    ExtentLaw (s.openMove hd o i args.at1) := by
  have hrec (k : Nat) : (s.openMove hd o i args.at1).record k
      = if k = hd.slot then .moving hd.gen o else s.record k := record_of_put s _ _ _ rfl k
  have hget (j : Fin 4) : (s.openMove hd o i args.at1).moves.get j
      = if j = i then .copying hd.slot args.at1 s.config.moveWindow else s.moves.get j :=
    Quad.get_set s.moves i j _
  obtain ⟨h1, h2, h3⟩ := h
  have ho : ExtentOk o.ext.base o.ext.length := h1 hd.slot o (by rw [hr]; rfl)
  have hal : args.at1.toNat % 16 = 0 := h3.2.2 args hc
  refine ⟨fun k o' hk => ?_, fun j k b c hj => ?_, h3⟩
  · rw [hrec] at hk
    split at hk
    · cases hk
      exact ho
    · exact h1 k o' hk
  · rw [hget] at hj
    split at hj
    · cases hj
      refine ⟨hal, fun o' hk => ?_⟩
      rw [hrec, if_pos rfl] at hk
      cases hk
      obtain ⟨_, hl1, hl2, hl3, _⟩ := ho
      exact ⟨hal, hl1, hl2, hl3, (extentFits_iff _ _).mp hfits⟩
    · refine ⟨(h2 j k b c hj).1, fun o' hk => (h2 j k b c hj).2 o' ?_⟩
      rwa [hrec, if_neg] at hk
      rintro rfl
      exact hno j b c hj

/-- The end of a move at its old base or at its new one (R113 to R115). -/
theorem ExtentLaw.ended {s : State} (h : ExtentLaw s) (hmove : MoveLaw s) (n : Nat) (new : Word)
    (k : Nat) (base : Word) (i : Fin 4) (entry : MoveEntry) (hi : s.moves.get i = .copying n new k)
    (hb : base = (s.record n).base ∨ base = new) (he : entry = .idle ∨ entry = .lapsed n) :
    ExtentLaw (s.endMove n base i entry) := by
  have hrec (m : Nat) : (s.endMove n base i entry).record m
      = if m = n then (s.record n).endMove base else s.record m := record_of_put s _ _ _ rfl m
  have hget (j : Fin 4) : (s.endMove n base i entry).moves.get j
      = if j = i then entry else s.moves.get j := Quad.get_set s.moves i j _
  obtain ⟨g, o, hm⟩ := hmove.moving hi
  have hobj : (s.record n).object = some o := by rw [hm]; rfl
  obtain ⟨h1, h2, h3⟩ := h
  have hok : ExtentOk base o.ext.length := by
    rcases hb with rfl | rfl
    · rw [Record.base, hobj]
      exact h1 n o hobj
    · exact (h2 i n _ k hi).2 o hobj
  refine ⟨fun m o' hk => ?_, fun j m b c hj => ?_, h3⟩
  · rw [hrec] at hk
    split at hk
    · rw [hm] at hk
      cases hk
      exact hok
    · exact h1 m o' hk
  · rw [hget] at hj
    split at hj
    · rcases he with rfl | rfl <;> cases hj
    · next hne =>
      refine ⟨(h2 j m b c hj).1, fun o' hk => (h2 j m b c hj).2 o' ?_⟩
      rwa [hrec, if_neg] at hk
      rintro rfl
      exact hne (hmove.2.2 j i m (by rw [hj, MoveEntry.names_copying])
        (by rw [hi, MoveEntry.names_copying]))

/-- The acknowledgement of a lapse, and the ticks: no entry gets another slot or new base. -/
theorem ExtentLaw.entries {s t : State} (h : ExtentLaw s) (hr : t.records = s.records)
    (hc : t.cmd = s.cmd)
    (hm : ∀ i n b k, t.moves.get i = .copying n b k → ∃ k', s.moves.get i = .copying n b k') :
    ExtentLaw t := by
  have hrec (n : Nat) : t.record n = s.record n := by rw [State.record_eq, hr, State.record_eq]
  obtain ⟨h1, h2, h3⟩ := h
  rw [ExtentLaw, hc]
  simp only [hrec]
  refine ⟨h1, fun i n b k hi => ?_, h3⟩
  obtain ⟨k', hk⟩ := hm i n b k hi
  exact h2 i n b k' hk

/-- Without records, moves and a command in progress there is no extent. -/
theorem ExtentLaw.cleared {t : State} (hr : t.records = []) (hm : ∀ i, t.moves.get i = .idle)
    (hc : (∀ args, t.cmd = some ⟨.create, args, .single⟩ → ExtentOk args.at0 args.at1.toNat)
      ∧ (∀ args, t.cmd = some ⟨.resize, args, .single⟩ → legalLength args.at1.toNat = true)
      ∧ ∀ args, t.cmd = some ⟨.moveBegin, args, .single⟩ → args.at1.toNat % 16 = 0) :
    ExtentLaw t := by
  refine ⟨fun n o hn => ?_, fun i n b k hi => ?_, hc⟩
  · rw [State.record_eq, hr] at hn
    cases hn
  · rw [hm] at hi
    cases hi

/-- Legal extents, with the laws they rest on. -/
def QueueMoveExtentLaw (s : State) : Prop := QueueMoveLaw s ∧ ExtentLaw s

theorem queueMoveExtentLaw_closed (clears : Bool) : ClosedUnder clears QueueMoveExtentLaw := by
  rintro s t h ⟨hqm, hs⟩
  refine ⟨queueMoveLaw_closed clears h hqm, ?_⟩
  obtain ⟨hq, hm⟩ := hqm
  have still {n : Nat} (hn : ¬ (s.record n).isMoving) (i : Fin 4) (b : Word) (k : Nat) :
      s.moves.get i ≠ .copying n b k := fun hi => hn (hm.moving hi)
  cases h with
  | cmdEnds => exact hs.withCmd none nofun nofun nofun
  | cmdBegins k args phase hb =>
    refine hs.withCmd _ (fun a he => ?create) (fun a he => ?resize) (fun a he => ?moveBegin) <;> cases he
    case create => exact createArgumentsOk_extentOk (hb.create rfl)
    case resize => exact hb.resize rfl
    case moveBegin => exact (aligned16_iff _).mp (hb.moveBegin rfl)
  | cmdForwards c phase hp => exact hs.phased c phase (by rintro rfl; cases hp)
  | cmdWalks c => exact hs.phased c _ nofun
  | cmdShortcuts c => exact hs.phased c _ nofun
  | rewrites n r hr =>
    refine hs.written n r rfl rfl rfl fun o' ho => Or.inl ?_
    obtain ⟨o, hold, hx⟩ := hr.object ho
    exact ⟨o, hold, by rw [hx], by rw [hx]⟩
  | alters n r hr => exact hs.written n r rfl rfl rfl fun o' ho => Or.inl (hr.object ho)
  | resizes n g o args hc hr hf =>
    refine hs.written n (.live g _) rfl rfl rfl fun o' ho => Or.inr ⟨?_, still (by rw [hr]; simp)⟩
    cases ho
    have hlen := (legalLength_iff _).mp (hs.2.2.2.1 args hc)
    obtain ⟨hb, _⟩ := hs.object (n := n) (o := o) (by rw [hr]; rfl)
    exact ⟨hb, hlen.1, hlen.2.1, hlen.2.2, (extentFits_iff _ _).mp hf⟩
  | allocates n rest args hc hn =>
    obtain ⟨g, hfree⟩ := hq.queuedFree (n := n) (by rw [hn]; exact List.mem_cons_self)
    refine hs.written n (.live _ _) rfl rfl rfl fun o' ho => Or.inr ⟨?_, still (by rw [hfree]; simp)⟩
    cases ho
    exact hs.2.2.1 args hc
  | retires n =>
    refine hs.written n (spent _) rfl rfl rfl fun o' ho => ?_
    rcases spent_cases (s.record n).gen with he | he <;> rw [he] at ho <;> cases ho
  | forwards n => exact hs.written n (.forwarded _ _ _) rfl rfl rfl (by rintro _ ⟨⟩)
  | opensMove hd o i args hc hr _ hi =>
    exact hs.opened hd o i args hc hr (moveBeginEntry_ok _ _ _ _ _ hi).1 (still (by rw [hr]; simp))
  | endsMove n new k base i entry hi hb he => exact hs.ended hm n new k base i entry hi hb he
  | forgetsLapse i n =>
    refine hs.entries rfl rfl fun j m b k hj => ⟨k, ?_⟩
    change (s.moves.set i .idle).get j = _ at hj
    rw [Quad.get_set] at hj
    split at hj
    · cases hj
    · exact hj
  | tick =>
    refine hs.entries rfl rfl fun i n b k hi => ?_
    rw [State.deliverTick_moves_get] at hi
    exact MoveEntry.afterTick_eq_copying hi
  | clearsAll _ hm => exact ExtentLaw.cleared rfl hm hs.2.2
  | powersOn | resetsWindow => exact ExtentLaw.cleared rfl moves_reset ⟨nofun, nofun, nofun⟩
  | _ => exact hs

/-- Settles O52: each write of an extent, and each new base, with the tests it has passed. -/
theorem stepKeepsExtentsLegal : Obligations.StepKeepsExtentsLegal :=
  fun _ _ hq hm hs he =>
    (closed_step (queueMoveExtentLaw_closed true) (fun _ _ h => h) ⟨⟨hq, hm⟩, hs⟩ he).2

/-! ### Parked requests -/

/-- One record written that stays MOVING if it was. -/
theorem ParkLaw.written {s t : State} (h : ParkLaw s) (n : Nat) (r : Record)
    (ht : t.records = putRecord s.records n r) (hp : t.parkList = s.parkList)
    (hr : (s.record n).isMoving → r.isMoving) : ParkLaw t := by
  rw [ParkLaw, hp]
  intro p hm
  rw [record_of_put s t n r ht]
  split
  · next he => exact hr (he ▸ h p hm)
  · exact h p hm

/-- The release that ends a move leaves only requests that wait for other slots (R118). -/
theorem ParkLaw.ended {s : State} (h : ParkLaw s) (n : Nat) (base : Word) (i : Fin 4)
    (entry : MoveEntry) : ParkLaw (s.endMove n base i entry) := by
  intro p hp
  obtain ⟨hmem, hne⟩ := List.mem_filter.mp hp
  have hrec : (s.endMove n base i entry).record p.slot = s.record p.slot :=
    recordsAgreeBut_put s _ n _ rfl p.slot (by simpa using hne)
  rw [hrec]
  exact h p hmem

/-- What a release takes from the Park List it adds to the Release Queue (R118). -/
theorem ParkCapacity.ended {s : State} (h : ParkCapacity s) (n : Nat) (base : Word) (i : Fin 4)
    (entry : MoveEntry) : ParkCapacity (s.endMove n base i entry) := by
  have hsplit := List.length_eq_length_filter_add (l := s.parkList) (fun p => p.slot == n)
  rw [ParkCapacity] at *
  simp only [State.endMove_parkList, State.endMove_releaseQueue, waitingFor, List.length_append,
    List.length_map, bne]
  omega

/-- Parked requests wait on moves and within eight places, with the laws that rests on. -/
def QueueMoveParkLaw (s : State) : Prop := QueueMoveLaw s ∧ ParkLaw s ∧ ParkCapacity s

theorem queueMoveParkLaw_closed (clears : Bool) : ClosedUnder clears QueueMoveParkLaw := by
  rintro s t h ⟨hqm, hs, hcap⟩
  refine ⟨queueMoveLaw_closed clears h hqm, ?_⟩
  obtain ⟨hq, hm⟩ := hqm
  cases h with
  | rewrites n r hr => exact ⟨hs.written n r rfl rfl hr.isMoving_iff.mp, hcap⟩
  | alters n r hr => exact ⟨hs.written n r rfl rfl hr.isMoving_iff.mp, hcap⟩
  | resizes n g o args _ hr => exact ⟨hs.written n (.live g _) rfl rfl (by rw [hr]; simp), hcap⟩
  | allocates n rest args _ hn =>
    obtain ⟨g, hfree⟩ := hq.queuedFree (n := n) (by rw [hn]; exact List.mem_cons_self)
    exact ⟨hs.written n (.live _ _) rfl rfl (by rw [hfree]; simp), hcap⟩
  | retires n hr => exact ⟨hs.written n (spent _) rfl rfl fun hc => absurd hc hr.not_isMoving, hcap⟩
  | forwards n cls target hr =>
    exact ⟨hs.written n (.forwarded _ _ _) rfl rfl fun hc => absurd hc hr.not_isMoving, hcap⟩
  | opensMove hd o =>
    exact ⟨hs.written hd.slot (.moving _ o) rfl rfl fun _ => Record.isMoving_moving _ o, hcap⟩
  | endsMove n _ _ base i entry => exact ⟨hs.ended n base i entry, hcap.ended n base i entry⟩
  | engineParks e r n next _ hroom hmoving =>
    constructor
    · intro p hp
      rcases List.mem_append.mp hp with hp | hp
      · exact hs p hp
      · rw [List.mem_singleton.mp hp]
        exact hmoving
    · have : s.parkList.length + s.releaseQueue.length < 8 := of_decide_eq_true hroom
      change (s.parkList ++ [Parked.mk r n]).length + s.releaseQueue.length ≤ 8
      rw [List.length_append, List.length_singleton]
      omega
  | engineTakes e r released looked x _ hr =>
    exact ⟨hs, (Nat.add_le_add_left (TakenFrom.length_le hr) _).trans hcap⟩
  | takeAnswered r released looked x hr =>
    exact ⟨hs, (Nat.add_le_add_left (TakenFrom.length_le hr) _).trans hcap⟩
  | clearsAll _ hidle =>
    refine ⟨fun p hp => ?_, hcap⟩
    obtain ⟨g, o, hp⟩ := hs p hp
    obtain ⟨i, b, k, hi⟩ := hm.1 p.slot g o hp
    rw [hidle] at hi
    cases hi
  | powersOn | resetsWindow => exact ⟨nofun, Nat.zero_le _⟩
  | _ => exact ⟨hs, hcap⟩

/-- Settles O53: a request is parked on a MOVING record where there is room, and released with its move. -/
theorem stepKeepsParkedRequestsOnMoves : Obligations.StepKeepsParkedRequestsOnMoves :=
  fun _ _ hq hm hs hcap he =>
    (closed_step (queueMoveParkLaw_closed true) (fun _ _ h => h) ⟨⟨hq, hm⟩, hs, hcap⟩ he).2

/-! ### The Resolution Cache -/

/-- Entries are removed alone, and the records of those that stay are LIVE with the same extent group. -/
theorem CacheLaw.kept {s t : State} (h : CacheLaw s) (hsub : t.cache.Sublist s.cache)
    (hrec : ∀ e ∈ t.cache, ∀ o, s.record e.final.slot = .live e.final.gen o →
      ∃ o', t.record e.final.slot = .live e.final.gen o' ∧ o'.ext = o.ext) : CacheLaw t := by
  obtain ⟨h1, h2, h3⟩ := h
  refine ⟨fun e he => ?_, hsub.length_le.trans h2, h3.sublist (hsub.map _)⟩
  obtain ⟨o, ho, hx⟩ := h1 e (hsub.subset he)
  obtain ⟨o', ho', hx'⟩ := hrec e he o ho
  exact ⟨o', ho', hx'.trans hx⟩

/-- A record written whose slot no remaining entry names. -/
theorem CacheLaw.dropped {s t : State} (h : CacheLaw s) (n : Nat) (r : Record)
    (ht : t.records = putRecord s.records n r) (hc : t.cache = withoutFinal s.cache n) : CacheLaw t := by
  refine h.kept (by rw [hc]; exact List.filter_sublist) fun e he o ho => ⟨o, ?_, rfl⟩
  rw [hc] at he
  rw [record_of_put s t n r ht, if_neg (by simpa using (List.mem_filter.mp he).2)]
  exact ho

/-- A record written that is LIVE after with the same extent group, if it was LIVE before. -/
theorem CacheLaw.written {s t : State} (h : CacheLaw s) (n : Nat) (r : Record)
    (ht : t.records = putRecord s.records n r) (hc : t.cache = s.cache)
    (hr : ∀ g o, s.record n = .live g o → ∃ o', r = .live g o' ∧ o'.ext = o.ext) : CacheLaw t := by
  refine h.kept (by rw [hc]) fun e _ o ho => ?_
  rw [record_of_put s t n r ht]
  split
  · next hn => exact hr _ o (hn ▸ ho)
  · exact ⟨o, ho, rfl⟩

theorem CacheLaw.empty {t : State} (hc : t.cache = []) : CacheLaw t := by
  rw [CacheLaw, hc]
  exact ⟨nofun, Nat.zero_le _, List.nodup_nil⟩

/-- What a walk's access does to the cache (R47, R49, R50). -/
theorem CacheLaw.walked {s : State} (h : CacheLaw s) (c : List CacheEntry) (hc : CacheDid s c) :
    CacheLaw { s with cache := c } := by
  obtain ⟨h1, h2, h3⟩ := h
  refine ⟨fun e he => (hc.entries e he).elim (h1 e) id, ?_, hc.nodup h3⟩
  exact hc.length.elim (fun hl => hl.trans h2) id

/-- A cache true of the records, with the queue exact. -/
def QueueCacheLaw (s : State) : Prop := QueueLaw s ∧ CacheLaw s

theorem queueCacheLaw_closed (clears : Bool) : ClosedUnder clears QueueCacheLaw := by
  rintro s t h ⟨hq, hs⟩
  refine ⟨queueLaw_closed clears h hq, ?_⟩
  cases h with
  | rewrites n r hr =>
    refine hs.written n r rfl rfl fun g o hl => ?_
    rw [hl] at hr
    cases hr with
    | same => exact ⟨o, rfl, rfl⟩
    | live _ _ o' hx => exact ⟨o', rfl, hx⟩
  | alters n r => exact hs.dropped n r rfl rfl
  | resizes n g => exact hs.dropped n (.live g _) rfl rfl
  | allocates n rest args _ hn =>
    obtain ⟨g, hfree⟩ := hq.queuedFree (n := n) (by rw [hn]; exact List.mem_cons_self)
    exact hs.written n (.live _ _) rfl rfl fun g' o hl => by rw [hfree] at hl; cases hl
  | retires n hr =>
    by_cases hf : (s.record n).stateCode = 3
    · exact CacheLaw.empty (if_pos hf)
    · exact hs.dropped n (spent _) rfl (if_neg hf)
  | opensMove hd o => exact hs.dropped hd.slot (.moving _ o) rfl rfl
  | endsMove n _ _ base =>
    refine hs.written n (Record.endMove _ _) rfl rfl fun g o hl => ?_
    rw [hl]
    exact ⟨o, rfl, rfl⟩
  | caches c hc => exact hs.walked c hc
  | forwards | clearsAll | powersOn | resetsWindow => exact CacheLaw.empty rfl
  | _ => exact hs

/-- Settles O54: a LIVE record leaves that state, or changes a cached field, with the removal of its
entries. -/
theorem stepKeepsTheCacheTrue : Obligations.StepKeepsTheCacheTrue :=
  fun _ _ hq hs he => (closed_step (queueCacheLaw_closed true) (fun _ _ h => h) ⟨hq, hs⟩ he).2

end Sys2Proof.Safety

/-! ## The laws of sweeps, settings and hop counts, kept by every step (chapters 4, 7 and 9) -/

namespace Sys2Proof.Safety

open Sys2Proof Sys2Proof.Machine

/-! ### The sweep's counters (R129) -/

/-- The counter laws of the three actions. -/
def CounterLaw (u : SweepUnit) : Prop :=
  (u.sel.action = .retire → u.matched = u.acted + u.skipped)
    ∧ (u.sel.action = .retag → u.matched = u.acted ∧ u.skipped = 0)
    ∧ (u.sel.action = .count → u.acted = 0 ∧ u.skipped = 0)

/-- The range of a sweep that is on: its cursor lies in it, and no slot was matched twice. -/
def RangeLaw (u : SweepUnit) : Prop :=
  1 ≤ u.sel.startSlot ∧ u.sel.startSlot ≤ u.cursor ∧ u.cursor ≤ u.sel.endSlot ∧ u.sel.endSlot ≤ 4095
    ∧ u.matched + u.sel.startSlot ≤ u.cursor

/-- R129, of the Sweep Unit alone. -/
def UnitLaw (u : SweepUnit) : Prop :=
  CounterLaw u ∧ (u.state ≠ .idle → RangeLaw u) ∧ u.cursor ≤ 4096 ∧ u.matched ≤ 4095

theorem sweepLaw_iff (s : State) : SweepLaw s ↔ UnitLaw s.sweep := by
  simp only [SweepLaw, UnitLaw, CounterLaw, RangeLaw, and_assoc]

/-- A sweep starts at its first slot with nothing matched (R123). -/
theorem unitLaw_started {sel : Selection} (h : selectionOk sel = true) : UnitLaw (startedSweep sel) := by
  obtain ⟨h1, h2, _, h4, h5, _⟩ := (selectionOk_iff sel).mp h
  exact ⟨⟨fun _ => rfl, fun _ => ⟨rfl, rfl⟩, fun _ => ⟨rfl, rfl⟩⟩,
    fun _ => ⟨h1, Nat.le_refl _, h5, h4, (Nat.zero_add _).le⟩, h2.trans (by decide), Nat.zero_le _⟩

/-- What a visit's counting keeps, and that it counts at most one match more (R126 to R128). -/
theorem Counted.counterLaw {u v : SweepUnit} (h : Counted u v) (hu : CounterLaw u) :
    CounterLaw v ∧ v.sel = u.sel ∧ v.state = u.state ∧ v.cursor = u.cursor ∧ v.matched ≤ u.matched + 1 := by
  obtain ⟨hretire, hretag, hcount⟩ := hu
  cases h with
  | unmatched => exact ⟨⟨hretire, hretag, hcount⟩, rfl, rfl, rfl, Nat.le_succ _⟩
  | counted ha =>
    refine ⟨⟨fun hc => ?_, fun hc => ?_, hcount⟩, rfl, rfl, rfl, Nat.le_refl _⟩
    · rw [ha] at hc; cases hc
    · rw [ha] at hc; cases hc
  | skipped ha =>
    refine ⟨⟨fun hc => ?_, fun hc => ?_, fun hc => ?_⟩, rfl, rfl, rfl, Nat.le_refl _⟩
    · have := hretire ha; dsimp only; omega
    · rw [ha] at hc; cases hc
    · rw [ha] at hc; cases hc
  | acted ha =>
    refine ⟨⟨fun hc => ?_, fun hc => ?_, fun hc => absurd hc ha⟩, rfl, rfl, rfl, Nat.le_refl _⟩
    · have := hretire hc; dsimp only; omega
    · have := hretag hc; dsimp only; omega

/-- The end of a visit: past the end slot or STOPPING the sweep is over, otherwise the cursor still lies in
the range (R125). -/
theorem UnitLaw.advanced {u : SweepUnit} (hc : CounterLaw u)
    (hr : 1 ≤ u.sel.startSlot ∧ u.sel.startSlot ≤ u.cursor ∧ u.cursor ≤ u.sel.endSlot
      ∧ u.sel.endSlot ≤ 4095 ∧ u.matched + u.sel.startSlot ≤ u.cursor + 1) : UnitLaw u.advanced := by
  obtain ⟨h1, h2, h3, h4, h5⟩ := hr
  rw [SweepUnit.advanced]
  split
  · exact ⟨hc, fun hn => absurd rfl hn, by dsimp only; omega, by dsimp only; omega⟩
  · split
    · exact ⟨hc, fun hn => absurd rfl hn, by dsimp only; omega, by dsimp only; omega⟩
    · exact ⟨hc, fun _ => ⟨h1, by dsimp only; omega, by dsimp only; omega, h4, h5⟩, by dsimp only; omega,
        by dsimp only; omega⟩

theorem sweepLaw_closed (clears : Bool) : ClosedUnder clears SweepLaw := by
  intro s t h hs
  have hu : UnitLaw s.sweep := (sweepLaw_iff s).mp hs
  cases h with
  | sweepStarts sel hsel => exact (sweepLaw_iff _).mpr (unitLaw_started hsel)
  | sweepStops hrun =>
    obtain ⟨hc, hr, hb⟩ := hu
    exact (sweepLaw_iff _).mpr ⟨hc, fun _ => hr (by rw [hrun]; decide), hb⟩
  | sweepVisits u hon hcounted =>
    obtain ⟨hc, hr, _⟩ := hu
    obtain ⟨h1, h2, h3, h4, h5⟩ := hr hon
    obtain ⟨hcu, hsel, _, hcursor, hmatched⟩ := Counted.counterLaw hcounted hc
    refine (sweepLaw_iff _).mpr (UnitLaw.advanced hcu ?_)
    rw [hsel, hcursor]
    exact ⟨h1, h2, h3, h4, by omega⟩
  | powersOn | resetsWindow =>
    exact (sweepLaw_iff _).mpr ⟨⟨nofun, nofun, fun _ => ⟨rfl, rfl⟩⟩, fun hn => absurd rfl hn,
      Nat.zero_le _, Nat.zero_le _⟩
  | _ => exact hs

/-- Settles O55: a sweep starts in its range, and each visit counts one slot of it. -/
theorem stepKeepsTheSweepCounters : Obligations.StepKeepsTheSweepCounters :=
  fun _ _ hs he => closed_step (sweepLaw_closed true) (fun _ _ h => h) hs he

/-! ### The settings (Table 9-7, R103, R146) -/

/-- The ranges of Table 9-7. -/
def FieldLaw (c : ConfigFields) : Prop :=
  (1 ≤ c.hopLimit ∧ c.hopLimit ≤ 15) ∧ (1 ≤ c.tickDiv ∧ c.tickDiv ≤ 255)
    ∧ (1 ≤ c.moveWindow ∧ c.moveWindow ≤ 65535) ∧ c.freeLowMark ≤ 4095

/-- The Move Timer's counter and its interval (R102). -/
def CounterWithin (s : State) : Prop := (1 ≤ s.interval ∧ s.interval ≤ 255) ∧ s.cycles < s.interval

theorem settingsLaw_iff (s : State) : SettingsLaw s ↔
    FieldLaw s.config ∧ CounterWithin s ∧ (s.pendingExpiries ++ s.expired).Nodup
      ∧ ∀ port, s.portDomains.get port ≠ 0#4 := by
  simp only [SettingsLaw, FieldLaw, CounterWithin, and_assoc]

/-- A write in range keeps every field in its range (R163). -/
theorem FieldLaw.written {c : ConfigFields} (h : FieldLaw c) (f v : Nat) (hv : configInRange f v = true) :
    FieldLaw (c.write f v) := by
  obtain ⟨hhop, htick, hmove, hfree⟩ := h
  match f with
  | 0 =>
    obtain ⟨h1, h2⟩ := (configInRange_iff 0 v 1 15 rfl).mp hv
    exact ⟨⟨h1, h2⟩, htick, hmove, hfree⟩
  | 1 | 2 => exact ⟨hhop, htick, hmove, hfree⟩
  | 3 =>
    obtain ⟨h1, h2⟩ := (configInRange_iff 3 v 1 255 rfl).mp hv
    exact ⟨hhop, ⟨h1, h2⟩, hmove, hfree⟩
  | 4 =>
    obtain ⟨h1, h2⟩ := (configInRange_iff 4 v 1 65535 rfl).mp hv
    exact ⟨hhop, htick, ⟨h1, h2⟩, hfree⟩
  | 5 => exact ⟨hhop, htick, hmove, ((configInRange_iff 5 v 0 4095 rfl).mp hv).2⟩
  | n + 6 => exact ⟨hhop, htick, hmove, hfree⟩

theorem fieldLaw_powerOn : FieldLaw powerOnConfig := by
  unfold FieldLaw
  decide

theorem counterWithin_reset : CounterWithin State.reset := by
  unfold CounterWithin
  decide

/-- A tick notes no entry whose expiry is known (R103). -/
theorem nodup_expiries_ticked {s : State} (h : (s.pendingExpiries ++ s.expired).Nodup) :
    (s.deliverTick.pendingExpiries ++ s.deliverTick.expired).Nodup := by
  change (s.pendingExpiries ++ (s.expired ++
    quadIndices.filter fun i => (s.moves.get i).expiresNow && !s.expiryKnown i)).Nodup
  rw [← List.append_assoc, List.nodup_append']
  refine ⟨h, List.Nodup.filter _ (by decide), fun i hi hnew => ?_⟩
  have hknown : s.expiryKnown i = true := by
    rw [State.expiryKnown_iff, ← List.mem_append]
    exact hi
  simp [hknown] at hnew

/-- An expiry recorded moves from the noted ones to the pending ones (R103, log 6). -/
theorem nodup_expiries_recorded {pending noted : List (Fin 4)} {i : Fin 4}
    (h : (pending ++ i :: noted).Nodup) :
    ((if pending.contains i then pending else pending ++ [i]) ++ noted).Nodup := by
  split
  · exact h.sublist ((List.sublist_cons_self i noted).append_left pending)
  · rwa [List.append_assoc, List.singleton_append]

/-- No value of 1..15 is domain 0 (R146). -/
theorem portDomain_ne_zero {d : Nat} (h1 : 1 ≤ d) (h2 : d ≤ 15) : BitVec.ofNat 4 d ≠ 0#4 := by
  rw [Ne, ← toNat_eq_zero_iff, BitVec.toNat_ofNat, Nat.mod_eq_of_lt (by omega)]
  omega

theorem settingsLaw_closed (clears : Bool) : ClosedUnder clears SettingsLaw := by
  intro s t h hs
  have hl := (settingsLaw_iff s).mp hs
  obtain ⟨hf, hc, hn, hd⟩ := hl
  cases h with
  | portDomain p d h1 h2 =>
    refine (settingsLaw_iff _).mpr ⟨hf, hc, hn, fun port => ?_⟩
    rw [Quad.get_set]
    split
    · exact portDomain_ne_zero h1 h2
    · exact hd port
  | configField f v hv => exact (settingsLaw_iff _).mpr ⟨hf.written f v hv, hc, hn, hd⟩
  | clock hlt => exact (settingsLaw_iff _).mpr ⟨hf, ⟨hc.1, hlt⟩, hn, hd⟩
  | tick => exact (settingsLaw_iff _).mpr ⟨hf, ⟨hf.2.1, hf.2.1.1⟩, nodup_expiries_ticked hn, hd⟩
  | expiryRecorded i rest hx =>
    rw [hx] at hn
    exact (settingsLaw_iff _).mpr ⟨hf, hc, nodup_expiries_recorded hn, hd⟩
  | expiryServed i rest hx =>
    have htail : rest.Nodup := (List.nodup_cons.mp (hx ▸ hn : (i :: rest).Nodup)).2
    exact (settingsLaw_iff _).mpr ⟨hf, hc, (List.append_nil rest).symm ▸ htail, hd⟩
  | powersOn =>
    exact (settingsLaw_iff _).mpr ⟨fieldLaw_powerOn, counterWithin_reset, List.nodup_nil,
      (by decide : ∀ port, State.reset.portDomains.get port ≠ 0#4)⟩
  | resetsWindow =>
    exact (settingsLaw_iff _).mpr ⟨hf, ⟨hf.2.1, hf.2.1.1⟩, List.nodup_nil, hd⟩
  | _ => exact hs

/-- Settles O58: every write of a setting is in range, and no expiry is recorded twice. -/
theorem stepKeepsTheSettingsInRange : Obligations.StepKeepsTheSettingsInRange :=
  fun _ _ hs he => closed_step (settingsLaw_closed true) (fun _ _ h => h) hs he

end Sys2Proof.Safety

namespace Sys2Proof.Machine

open Sys2Proof Sys2Proof.Safety

/-! ### One engine put into a state -/

@[simp] theorem State.putEngine_engine_same (s : State) (e : EngineId) (x : Engine) :
    (s.putEngine e x).engine e = x := by
  cases e <;> rfl

theorem State.putEngine_engine (s : State) (e e' : EngineId) (x : Engine) :
    (s.putEngine e x).engine e' = if e' = e then x else s.engine e' := by
  cases e <;> cases e' <;> rfl

end Sys2Proof.Machine

namespace Sys2Proof.Safety

open Sys2Proof Sys2Proof.Machine

/-! ### Hop counts (R64) -/

/-- R64 for what waits in the Command Unit. -/
def CommandHops (x : Option Command) : Prop :=
  (∀ c r p, x = some c → c.phase = .walking r p → ProgressOk p)
    ∧ ∀ c sc result, x = some c → c.phase = .walkShortcut sc result → result.hops ≤ 15

/-- R64 for the walk engines. -/
def EngineHops (s : State) : Prop := ∀ e r p, s.engine e = .walking r p → ProgressOk p

theorem hopLaw_iff (s : State) : HopLaw s ↔
    (1 ≤ s.config.hopLimit ∧ s.config.hopLimit ≤ 15) ∧ EngineHops s ∧ CommandHops s.cmd
      ∧ ∀ r ∈ s.responses, r.result.hops ≤ 15 := by
  simp only [HopLaw, EngineHops, CommandHops, and_assoc]

theorem ProgressOk.hops_le {p : WalkProgress} (h : ProgressOk p) : p.hops ≤ 15 := h.2.1.trans h.2.2

/-- Where a walk's HOP_LIMIT comes from, it is at most 15. -/
theorem CommandLimit.le {s : State} {c : Command} {limit : Nat} (h : CommandLimit s c limit)
    (hs : HopLaw s) (hc : s.cmd = some c) : limit ≤ 15 := by
  rcases h with rfl | ⟨r, p, hp, rfl⟩
  · exact hs.1.2
  · exact (hs.2.2.1 c r p hc hp).2.2

theorem EngineLimit.le {s : State} {e : EngineId} {limit : Nat} (h : EngineLimit s e limit)
    (hs : HopLaw s) : limit ≤ 15 := by
  rcases h with rfl | ⟨r, p, hp, rfl⟩
  · exact hs.1.2
  · exact (hs.2.1 e r p hp).2.2

/-- What a walk can report is at most 15. -/
theorem CommandReports.le {s : State} {c : Command} {hops : Nat} (h : CommandReports s c hops)
    (hs : HopLaw s) (hc : s.cmd = some c) : hops ≤ 15 := by
  rcases h with h | ⟨r, p, hp, h⟩
  · exact h.trans hs.1.2
  · exact h.trans (ProgressOk.hops_le (hs.2.2.1 c r p hc hp))

theorem EngineReports.le {s : State} {e : EngineId} {hops : Nat} (h : EngineReports s e hops)
    (hs : HopLaw s) : hops ≤ 15 := by
  rcases h with h | ⟨r, p, hp, h⟩
  · exact h.trans hs.1.2
  · exact h.trans (ProgressOk.hops_le (hs.2.1 e r p hp))

/-- Another command in progress, that keeps R64. -/
theorem HopLaw.withCmd {s : State} (h : HopLaw s) (x : Option Command) (hx : CommandHops x) :
    HopLaw { s with cmd := x } := by
  obtain ⟨hlimit, hengine, _, hresponses⟩ := (hopLaw_iff s).mp h
  exact (hopLaw_iff _).mpr ⟨hlimit, hengine, hx, hresponses⟩

theorem commandHops_none : CommandHops none :=
  ⟨fun _ _ _ h => (by cases h), fun _ _ _ h => (by cases h)⟩

/-- Both engines IDLE. -/
theorem engineHops_idle {s : State} (ha : s.engineA = .idle) (hb : s.engineB = .idle) : EngineHops s := by
  intro e r p h
  cases e with
  | a => cases ha.symm.trans h
  | b => cases hb.symm.trans h

/-- A phase that is neither WALKING nor SHORTCUT. -/
theorem commandHops_of_phase (c : Command) (hw : ∀ r p, c.phase ≠ .walking r p)
    (hs : ∀ sc x, c.phase ≠ .walkShortcut sc x) : CommandHops (some c) :=
  ⟨fun _ r p he hp => by cases he; exact absurd hp (hw r p),
    fun _ sc x he hp => by cases he; exact absurd hp (hs sc x)⟩

/-- One engine put into a state that keeps R64. -/
theorem HopLaw.withEngine {s : State} (h : HopLaw s) (e : EngineId) (x : Engine)
    (hx : ∀ r p, x = .walking r p → ProgressOk p) : HopLaw (s.putEngine e x) := by
  obtain ⟨hlimit, hengine, hcmd, hresponses⟩ := (hopLaw_iff s).mp h
  refine (hopLaw_iff _).mpr ⟨hlimit, fun e' r p hw => ?_, hcmd, hresponses⟩
  rw [State.putEngine_engine] at hw
  split at hw
  · exact hx r p hw
  · exact hengine e' r p hw

/-- One response more, with at most 15 hops. -/
theorem HopLaw.answered {s : State} (h : HopLaw s) (r : LinkRequest) (x : WalkResult)
    (hx : x.hops ≤ 15) : HopLaw (s.place r x) := by
  obtain ⟨hlimit, hengine, hcmd, hresponses⟩ := (hopLaw_iff s).mp h
  refine (hopLaw_iff _).mpr ⟨hlimit, fun e => by cases e; exact hengine .a; exact hengine .b, hcmd,
    fun q hq => ?_⟩
  rcases List.mem_append.mp hq with hq | hq
  · exact hresponses q hq
  · rw [List.mem_singleton.mp hq]
    exact hx

theorem resting_ne_walking (next : Option Shortcut) (r : LinkRequest) (p : WalkProgress) :
    restingEngine next ≠ .walking r p := by
  cases next <;> exact Engine.noConfusion

theorem hopLaw_closed (clears : Bool) : ClosedUnder clears HopLaw := by
  intro s t h hs
  cases h with
  | cmdEnds => exact hs.withCmd none commandHops_none
  | cmdBegins k args phase hb =>
    refine hs.withCmd _ (commandHops_of_phase _ ?_ ?_) <;>
      rcases hb.waits with rfl | ⟨_, rfl⟩ | ⟨_, _, rfl⟩ <;> exact nofun
  | cmdForwards c phase hp =>
    refine hs.withCmd _ (commandHops_of_phase _ ?_ ?_) <;> rintro _ _ rfl <;> cases hp
  | cmdWalks c r p hc h1 h2 hl =>
    refine hs.withCmd _ ⟨fun _ _ _ he hp => ?_, fun _ _ _ he hp => ?_⟩ <;> cases he <;> cases hp
    exact ⟨h1, h2, CommandLimit.le hl hs hc⟩
  | cmdShortcuts c sc x hc hr =>
    refine hs.withCmd _ ⟨fun _ _ _ he hp => ?_, fun _ _ _ he hp => ?_⟩ <;> cases he <;> cases hp
    exact CommandReports.le hr hs hc
  | engineWalks e r p _ h1 h2 hl =>
    exact hs.withEngine e _ fun _ _ he => by cases he; exact ⟨h1, h2, EngineLimit.le hl hs⟩
  | engineAnswers e r x next _ hr =>
    exact (hs.answered r x (EngineReports.le hr hs)).withEngine e _ fun r p he =>
      absurd he (resting_ne_walking next r p)
  | engineParks e r n next =>
    exact HopLaw.withEngine (s := s.park r n) hs e _ fun r p he => absurd he (resting_ne_walking next r p)
  | engineIdles e => exact hs.withEngine e _ nofun
  | engineTakes e r released looked x _ _ hx =>
    refine HopLaw.withEngine (s := { s with releaseQueue := released, lookupQueue := looked }) hs e x ?_
    rcases hx with rfl | rfl <;> exact nofun
  | takeAnswered r released looked x _ hx =>
    exact HopLaw.answered (s := { s with releaseQueue := released, lookupQueue := looked }) hs r x
      (hx ▸ Nat.zero_le _)
  | responseAccepted r rest hr =>
    obtain ⟨hlimit, hengine, hcmd, hresponses⟩ := (hopLaw_iff s).mp hs
    exact (hopLaw_iff _).mpr ⟨hlimit, hengine, hcmd, fun q hq =>
      hresponses q (by rw [hr]; exact List.mem_cons_of_mem r hq)⟩
  | configField f v hv =>
    obtain ⟨hlimit, hengine, hcmd, hresponses⟩ := (hopLaw_iff s).mp hs
    refine (hopLaw_iff _).mpr ⟨?_, hengine, hcmd, hresponses⟩
    match f with
    | 0 => exact (configInRange_iff 0 v 1 15 rfl).mp hv
    | 1 | 2 | 3 | 4 | 5 | n + 6 => exact hlimit
  | powersOn =>
    exact (hopLaw_iff _).mpr ⟨fieldLaw_powerOn.1, engineHops_idle rfl rfl, commandHops_none, fun _ hr => absurd hr List.not_mem_nil⟩
  | resetsWindow =>
    exact (hopLaw_iff _).mpr ⟨hs.1, engineHops_idle rfl rfl, commandHops_none, fun _ hr => absurd hr List.not_mem_nil⟩
  | _ => exact hs

/-- Settles O57: a hop is taken below the walk's limit alone, and a report stays within it. -/
theorem stepKeepsWalksWithinTheHopLimit : Obligations.StepKeepsWalksWithinTheHopLimit :=
  fun _ _ hs he => closed_step (hopLaw_closed true) (fun _ _ h => h) hs he

end Sys2Proof.Safety

/-! ## The laws of the link, kept by every step, and the laws at reset (chapters 1, 2 and 8)

Where the part holds a request is told by counting: `requestsHeld` is a sum over places, and each effect
of the link moves one request from one place to another, adds one with its tag, or drops one with its tag. -/

namespace Sys2Proof.Safety

open Sys2Proof Sys2Proof.Machine

/-! ### The places of the requests in flight (Table 8-2) -/

theorem engineRequests_of_requestOf {x : Engine} {r : LinkRequest} (h : requestOf x = some r) :
    engineRequests x = [(r.port, r.tag)] := by
  cases x <;> cases h <;> rfl

@[simp] theorem engineRequests_resting (next : Option Shortcut) :
    engineRequests (restingEngine next) = [] := by
  cases next <;> rfl

/-- One engine put into a state: its request leaves the count, the one of the new state joins it. -/
theorem count_held_putEngine (s : State) (e : EngineId) (x : Engine) (y : Fin 4 × BitVec 4) :
    (requestsHeld (s.putEngine e x)).count y + (engineRequests (s.engine e)).count y
      = (requestsHeld s).count y + (engineRequests x).count y := by
  cases e <;>
    simp only [requestsHeld, State.putEngine, State.setEngine, State.engine, List.count_append] <;> omega

theorem count_held_place (s : State) (r : LinkRequest) (x : WalkResult) (y : Fin 4 × BitVec 4) :
    (requestsHeld (s.place r x)).count y = (requestsHeld s).count y + [(r.port, r.tag)].count y := by
  simp only [requestsHeld, State.place_lookupQueue, State.place_engineA, State.place_engineB,
    State.place_parkList, State.place_releaseQueue, State.place_responses, List.map_append, List.map_cons,
    List.map_nil, List.count_append]
  omega

theorem count_held_park (s : State) (r : LinkRequest) (n : Nat) (y : Fin 4 × BitVec 4) :
    (requestsHeld (s.park r n)).count y = (requestsHeld s).count y + [(r.port, r.tag)].count y := by
  simp only [requestsHeld, State.park_lookupQueue, State.park_engineA, State.park_engineB,
    State.park_parkList, State.park_releaseQueue, State.park_responses, List.map_append, List.map_cons,
    List.map_nil, List.count_append]
  omega

/-- A request that leaves a queue leaves the count. -/
theorem count_held_taken (s : State) (r : LinkRequest) (released looked : List LinkRequest)
    (h : TakenFrom s r released looked) (y : Fin 4 × BitVec 4) :
    (requestsHeld { s with releaseQueue := released, lookupQueue := looked }).count y
      + [(r.port, r.tag)].count y = (requestsHeld s).count y := by
  rcases h with ⟨hr, hl⟩ | ⟨hr, hl⟩ <;>
    simp only [requestsHeld, hr, hl, List.map_cons, List.count_append, List.count_cons,
      List.count_nil] <;> omega

/-- A release moves requests from the Park List to the Release Queue (R118). -/
theorem held_perm_endMove (s : State) (n : Nat) (base : Word) (i : Fin 4) (entry : MoveEntry) :
    (requestsHeld (s.endMove n base i entry)).Perm (requestsHeld s) := by
  refine List.perm_iff_count.mpr fun y => ?_
  have hsplit := ((List.filter_append_perm (fun p : Parked => p.slot == n) s.parkList).map
    fun p => (p.request.port, p.request.tag)).count_eq y
  simp only [List.map_append, List.count_append] at hsplit
  simp only [requestsHeld, State.endMove_lookupQueue, State.endMove_engineA, State.endMove_engineB,
    State.endMove_parkList, State.endMove_releaseQueue, State.endMove_responses, waitingFor,
    List.map_append, List.map_map, List.count_append, Function.comp_def, bne]
  omega

/-! ### Tags of one port -/

theorem tagsOf_perm {l l' : List (Fin 4 × BitVec 4)} (h : l.Perm l') (port : Fin 4) :
    (tagsOf l port).Perm (tagsOf l' port) := (h.filter _).map _

theorem tagsOf_cons (x : Fin 4 × BitVec 4) (l : List (Fin 4 × BitVec 4)) (port : Fin 4) :
    tagsOf (x :: l) port = if x.1 = port then x.2 :: tagsOf l port else tagsOf l port := by
  by_cases h : x.1 = port <;> simp [tagsOf, h]

theorem tagsOf_eq_nil {l : List (Fin 4 × BitVec 4)} (h : ∀ port, tagsOf l port = []) : l = [] := by
  rw [List.eq_nil_iff_forall_not_mem]
  intro x hx
  have hmem : x.2 ∈ tagsOf l x.1 :=
    List.mem_map.mpr ⟨x, List.mem_filter.mpr ⟨hx, beq_self_eq_true _⟩, rfl⟩
  rw [h] at hmem
  exact List.not_mem_nil hmem

/-! ### Credits, tags and requests in flight (R136, R140) -/

/-- Requests that change their places alone. -/
theorem LinkLaw.moved {s t : State} (h : LinkLaw s) (hp : t.ports = s.ports)
    (hcount : ∀ y, (requestsHeld t).count y = (requestsHeld s).count y) : LinkLaw t := by
  intro port
  obtain ⟨hcredits, hnodup, hperm⟩ := h port
  rw [hp]
  exact ⟨hcredits, hnodup, (tagsOf_perm (List.perm_iff_count.mpr hcount) port).trans hperm⟩

/-- An accepted request takes a credit and adds its tag, on its port alone (R138). -/
theorem LinkLaw.accepted {s : State} (h : LinkLaw s) (r : LinkRequest)
    (hc : (s.ports.get r.port).credits ≠ 0) (ht : r.tag ∉ (s.ports.get r.port).tags) :
    LinkLaw (s.acceptRequest r) := by
  have hheld : (requestsHeld (s.acceptRequest r)).Perm ((r.port, r.tag) :: requestsHeld s) := by
    refine List.perm_iff_count.mpr fun y => ?_
    simp only [requestsHeld, State.acceptRequest, List.map_append, List.map_cons, List.map_nil,
      List.count_append, List.count_cons, List.count_nil]
    omega
  intro port
  have htags := tagsOf_perm hheld port
  rw [tagsOf_cons] at htags
  have hports : (s.acceptRequest r).ports.get port = if port = r.port then
      ⟨(s.ports.get r.port).credits - 1, (s.ports.get r.port).tags ++ [r.tag]⟩ else s.ports.get port :=
    Quad.get_set s.ports r.port port _
  rw [hports]
  obtain ⟨hcredits, hnodup, hperm⟩ := h port
  by_cases hport : port = r.port
  · subst hport
    rw [if_pos rfl] at htags ⊢
    refine ⟨?_, ?_, ?_⟩
    · rw [List.length_append, List.length_singleton]
      dsimp only
      omega
    · exact List.nodup_append'.mpr ⟨hnodup, List.nodup_singleton _, by simpa using ht⟩
    · exact htags.trans ((hperm.cons r.tag).trans (List.perm_append_singleton _ _).symm)
  · rw [if_neg (Ne.symm hport)] at htags
    rw [if_neg hport]
    exact ⟨hcredits, hnodup, htags.trans hperm⟩

/-- An accepted response gives its credit and its tag back, on its port alone (R145). -/
theorem LinkLaw.answered {s t : State} (h : LinkLaw s) (r : Response)
    (hheld : (requestsHeld s).Perm ((r.port, r.tag) :: requestsHeld t))
    (hp : t.ports = s.ports.set r.port
      ⟨(s.ports.get r.port).credits + 1, (s.ports.get r.port).tags.erase r.tag⟩) : LinkLaw t := by
  intro port
  have htags := tagsOf_perm hheld port
  rw [tagsOf_cons] at htags
  rw [hp, Quad.get_set]
  obtain ⟨hcredits, hnodup, hperm⟩ := h port
  by_cases hport : port = r.port
  · subst hport
    rw [if_pos rfl] at htags ⊢
    have hcons := htags.symm.trans hperm
    have hmem : r.tag ∈ (s.ports.get r.port).tags := hcons.subset List.mem_cons_self
    refine ⟨?_, hnodup.erase _, ((List.cons_perm_iff_perm_erase.mp hcons).2)⟩
    have hlen := List.length_erase_add_one hmem
    dsimp only
    omega
  · rw [if_neg (Ne.symm hport)] at htags
    rw [if_neg hport]
    exact ⟨hcredits, hnodup, htags.symm.trans hperm⟩

/-- Every port with its four credits, and no request held. -/
theorem LinkLaw.reset {t : State} (hp : ∀ port, t.ports.get port = ⟨4, []⟩) (hh : requestsHeld t = []) :
    LinkLaw t := by
  intro port
  rw [hp, hh]
  exact ⟨rfl, List.nodup_nil, List.Perm.nil⟩

theorem ports_reset (port : Fin 4) : State.reset.ports.get port = ⟨4, []⟩ := by
  fin_cases port <;> rfl

theorem linkLaw_closed (clears : Bool) : ClosedUnder clears LinkLaw := by
  intro s t h hs
  cases h with
  | endsMove n _ _ base i entry =>
    exact hs.moved rfl fun y => (held_perm_endMove s n base i entry).count_eq y
  | engineWalks e r p hr =>
    refine hs.moved rfl fun y => ?_
    have hput := count_held_putEngine s e (.walking r p) y
    rw [engineRequests_of_requestOf hr] at hput
    exact Nat.add_right_cancel hput
  | engineAnswers e r x next hr =>
    refine hs.moved rfl fun y => ?_
    have hput := count_held_putEngine (s.place r x) e (restingEngine next) y
    have hengine : engineRequests ((s.place r x).engine e) = [(r.port, r.tag)] :=
      engineRequests_of_requestOf (by cases e <;> exact hr)
    rw [hengine, count_held_place, engineRequests_resting, List.count_nil] at hput
    omega
  | engineParks e r n next hr =>
    refine hs.moved rfl fun y => ?_
    have hput := count_held_putEngine (s.park r n) e (restingEngine next) y
    have hengine : engineRequests ((s.park r n).engine e) = [(r.port, r.tag)] :=
      engineRequests_of_requestOf (by cases e <;> exact hr)
    rw [hengine, count_held_park, engineRequests_resting, List.count_nil] at hput
    omega
  | engineIdles e c hc =>
    refine hs.moved rfl fun y => ?_
    have hput := count_held_putEngine s e .idle y
    rw [hc] at hput
    exact hput
  | engineTakes e r released looked x he hr hx =>
    refine hs.moved rfl fun y => ?_
    have hput := count_held_putEngine { s with releaseQueue := released, lookupQueue := looked } e x y
    have htaken := count_held_taken s r released looked hr y
    have hidle : engineRequests
        (State.engine { s with releaseQueue := released, lookupQueue := looked } e) = [] := by
      cases e <;> exact congrArg engineRequests he
    have hnew : engineRequests x = [(r.port, r.tag)] := by
      rcases hx with rfl | rfl <;> rfl
    rw [hidle, hnew, List.count_nil] at hput
    omega
  | takeAnswered r released looked x hr =>
    refine hs.moved rfl fun y => ?_
    rw [count_held_place]
    exact count_held_taken s r released looked hr y
  | requestAccepted r _ hc ht => exact hs.accepted r hc ht
  | responseAccepted r rest hr =>
    refine hs.answered r (List.perm_iff_count.mpr fun y => ?_) rfl
    simp only [requestsHeld, hr, List.map_cons, List.count_append, List.count_cons]
    omega
  | powersOn | resetsWindow => exact LinkLaw.reset ports_reset rfl
  | _ => exact hs

/-- Settles O56: each request moves from place to place, from its acknowledge to the acceptance of its
response. -/
theorem stepKeepsEveryRequestHeldOnce : Obligations.StepKeepsEveryRequestHeldOnce :=
  fun _ _ hs he => closed_step (linkLaw_closed true) (fun _ _ h => h) hs he

end Sys2Proof.Safety

/-! ## The CLOSED gate, generations, and the laws at reset (chapters 1, 2, 8 and 9) -/

namespace Sys2Proof.Machine

open Sys2Proof Sys2Proof.Safety

/-! ### What leaves a CLOSED gate CLOSED -/

/-- A submission whose acceptance leaves the gate CLOSED. -/
theorem State.submit_closed {s : State} (accept : Quad Word → State → State) (hs : s.gate = .closed)
    (ha : (accept s.args s).gate = .closed) : (s.submit accept).gate = .closed := by
  rcases s.submit_cases accept with e | e | ⟨_, e⟩ <;> rw [e]
  · exact hs
  · exact hs
  · exact ha

/-- An access whose body leaves a CLOSED gate CLOSED. -/
theorem State.access_closed {s : State} (c : Client) (body : State → State) (hs : s.gate = .closed)
    (hb : ∀ t : State, t.gate = .closed → (body t).gate = .closed) : (s.access c body).gate = .closed := by
  rcases s.access_cases c body with e | ⟨_, e⟩ <;> rw [e]
  · exact hs
  · exact hb _ hs

theorem State.commandAccess_closed {s : State} (k : Cmd) (body : Quad Word → State → State)
    (hs : s.gate = .closed) (hb : ∀ args (t : State), t.gate = .closed → (body args t).gate = .closed) :
    (s.commandAccess k body).gate = .closed := by
  rcases s.commandAccess_cases k body with e | ⟨args, _, e⟩ <;> rw [e]
  · exact hs
  · exact hb args _ hs

theorem State.whenRunning_closed {s : State} (write : State → State) (hs : s.gate = .closed)
    (hw : (write s).gate = .closed) : (s.whenRunning write).gate = .closed := by
  rcases s.whenRunning_cases write with e | ⟨_, e⟩ <;> rw [e]
  · exact hs
  · exact hw

/-- No drain ends at a CLOSED gate. -/
theorem State.testDrain_closed {s : State} (hs : s.gate = .closed) : s.testDrain.gate = .closed := by
  rcases s.testDrain_cases with e | ⟨_, _, e⟩ <;> rw [e]
  exact hs

theorem acceptHandle_gate (k : Cmd) (args : Quad Word) (s : State) :
    (acceptHandle k args s).gate = s.gate := by
  rw [acceptHandle]
  split <;> rfl

/-- Every command but LINK_OPEN leaves a CLOSED gate CLOSED at its submission (R149). -/
theorem execCommand_closed (k : Cmd) (hk : k ≠ .linkOpen) (s t : State) (hs : s.gate = .closed)
    (he : execCommand k s = .next t) : t.gate = .closed := by
  cases k <;> simp only [execCommand, execCreate, execRetire, execPin, execUnpin, execClearDirectory,
    execAlter, execResize, execReadRecord, execLookup, execForward, execMoveBegin, execMoveCommit,
    execMoveAbort, execSweepStart, execSweepStop, execLinkClose, execSetPortDomain,
    execSetConfig, execReadConfig] at he <;> cases he
  case linkOpen => exact absurd rfl hk
  case linkClose =>
    refine s.submit_closed _ hs ?_
    rw [State.complete_gate, s.closeGate_not_opened (by rw [hs]; decide), hs]
  case retire | pin | unpin | moveCommit | moveAbort =>
    exact s.submit_closed _ hs ((acceptHandle_gate _ _ s).trans hs)
  all_goals
    refine s.submit_closed _ hs ?_
    repeat' split
    all_goals exact hs

theorem execWindowReset_closed (v : Word) (s t : State) (hs : s.gate = .closed)
    (he : execWindowReset v s = .next t) : t.gate = .closed := by
  cases he
  refine s.whenRunning_closed _ hs ?_
  dsimp only
  split
  · rfl
  · exact hs

/-! ### The gate under the body of each access -/

theorem createBody_gate (args : Quad Word) (s : State) : (createBody args s).gate = s.gate := by
  rcases createBody_cases args s with ⟨_, e⟩ | ⟨_, _, _, _, _, e⟩ <;> rw [e] <;> rfl

theorem retireBody_gate (args : Quad Word) (s : State) : (retireBody args s).gate = s.gate := by
  rcases retireBody_cases args s with ⟨_, e⟩ | ⟨n, _, _, e⟩ <;> rw [e]
  · rfl
  · exact s.retire_gate n

theorem pinBody_gate (args : Quad Word) (s : State) : (pinBody args s).gate = s.gate := by
  rcases pinBody_cases args s with ⟨_, e⟩ | ⟨_, _, _, _, _, _, e⟩ <;> rw [e] <;> rfl

theorem unpinBody_gate (args : Quad Word) (s : State) : (unpinBody args s).gate = s.gate := by
  rcases unpinBody_cases args s with ⟨_, e⟩ | ⟨_, _, _, _, _, _, e⟩ <;> rw [e] <;> rfl

theorem clearBody_gate (args : Quad Word) (s : State) : (clearBody args s).gate = s.gate := by
  rcases clearBody_cases args s with ⟨_, e⟩ | ⟨_, _, e⟩ <;> rw [e] <;> rfl

theorem alterBody_gate (args : Quad Word) (s : State) : (alterBody args s).gate = s.gate := by
  rcases alterBody_cases args s with ⟨_, e⟩ | ⟨n, _, r, _, e⟩ <;> rw [e]
  · rfl
  · exact (State.alterCacheAction_gate (s.setRecord n r) args.at1 n)

theorem resizeBody_gate (args : Quad Word) (s : State) : (resizeBody args s).gate = s.gate := by
  rcases resizeBody_cases args s with ⟨_, e⟩ | ⟨_, _, _, _, _, _, e⟩ <;> rw [e] <;> rfl

theorem fromBody_gate (c : Command) (source target : Handle) (s : State) :
    (fromBody c source target s).gate = s.gate := by
  rw [fromBody]
  split <;> rfl

theorem checkBody_gate (c : Command) (source target : Handle) (snapshot : BitVec 16) (h : Handle) (k : Nat)
    (s : State) : (checkBody c source target snapshot h k s).gate = s.gate := by
  rw [checkBody]
  split <;> rfl

theorem finalBody_gate (source target : Handle) (snapshot : BitVec 16) (h : Handle) (k : Nat) (s : State) :
    (finalBody source target snapshot h k s).gate = s.gate := by
  rcases finalBody_cases source target snapshot h k s with ⟨_, e⟩ | ⟨_, _, _, _, e⟩ <;> rw [e] <;> rfl

theorem moveBeginBody_gate (args : Quad Word) (s : State) : (moveBeginBody args s).gate = s.gate := by
  rcases moveBeginBody_cases args s with ⟨_, e⟩ | ⟨_, _, _, _, _, _, _, e⟩ <;> rw [e] <;> rfl

theorem endMoveBody_gate (k : Cmd) (base : Word → Word → Word) (args : Quad Word) (s : State) :
    (endMoveBody k base args s).gate = s.gate := by
  rcases endMoveBody_cases k base args s with ⟨_, e⟩ | ⟨_, _, _, e⟩ | ⟨_, _, _, _, _, _, e⟩ <;>
    rw [e] <;> rfl

theorem applyShortcut_gate (c : Shortcut) (s : State) : (applyShortcut c s).gate = s.gate := by
  rcases applyShortcut_cases c s with e | ⟨_, _, _, _, e⟩ <;> rw [e]
  rfl

theorem linkUnpinBody_gate (r : LinkRequest) (s : State) : (linkUnpinBody r s).gate = s.gate := by
  rcases linkUnpinBody_cases r s with ⟨_, e⟩ | ⟨_, _, _, _, _, e⟩ <;> rw [e] <;> rfl

theorem takeRequest_gate (e : EngineId) (r : LinkRequest) (s : State) :
    (takeRequest e r s).gate = s.gate := by
  rw [takeRequest]
  split
  · rfl
  · split <;> exact State.setEngine_gate _ _ _

theorem visitBody_gate (s : State) : (visitBody s).gate = s.gate := by
  rcases visitBody_cases s with ⟨_, _, e⟩ | ⟨n, _, _, _, e⟩ | ⟨_, _, _, _, e⟩ <;> rw [e]
  · exact s.retire_gate n
  · rfl

theorem expireEntry_gate (s : State) (i : Fin 4) : (s.expireEntry i).gate = s.gate := by
  rcases s.expireEntry_cases i with e | ⟨_, _, _, e⟩ <;> rw [e]
  rfl

/-- An access of a walk never touches the gate itself (R63). -/
theorem WalkDid.gate {mayPark : Bool} {limit bound : Nat} {s : State} {x : State × WalkStep}
    (h : WalkDid mayPark limit bound s x) : x.1.gate = s.gate := by rw [h.frame]

theorem commandHandOn_gate (c : Command) (r : WalkRequest) (x : State × WalkStep) :
    (commandHandOn c r x).gate = x.1.gate := by rw [commandHandOn_frame]

theorem settleEngine_closed (e : EngineId) (next : Option Shortcut) {s : State} (hs : s.gate = .closed) :
    (s.settleEngine e next).gate = .closed := by
  cases next with
  | none => exact State.testDrain_closed (by rw [State.setEngine_gate, hs])
  | some c => rw [State.settleEngine, State.setEngine_gate, hs]

theorem engineHandOn_closed (e : EngineId) (r : LinkRequest) {x : State × WalkStep}
    (hx : x.1.gate = .closed) : (engineHandOn e r x).gate = .closed := by
  rw [engineHandOn]
  split
  · rw [State.setEngine_gate, hx]
  · exact settleEngine_closed _ _ hx
  · exact settleEngine_closed _ _ hx

/-! ### The walks' accesses at a CLOSED gate -/

theorem execWalkFirstAccess_closed (w : Walker) (s t : State) (hs : s.gate = .closed)
    (he : execWalkFirstAccess w s = .next t) : t.gate = .closed := by
  cases w with
  | commandUnit =>
    simp only [execWalkFirstAccess] at he
    cases he
    split
    · split
      · next r _ =>
        exact s.access_closed _ _ hs fun u hu =>
          (commandHandOn_gate _ r _).trans ((walkFirst_did false r u).gate.trans hu)
      · exact hs
    · exact hs
  | engine e =>
    simp only [execWalkFirstAccess] at he
    cases he
    split
    · next r _ =>
      exact s.access_closed _ _ hs fun u hu =>
        engineHandOn_closed e r ((walkFirst_did true r.req u).gate.trans hu)
    · exact hs

theorem execWalkHopAccess_closed (w : Walker) (s t : State) (hs : s.gate = .closed)
    (he : execWalkHopAccess w s = .next t) : t.gate = .closed := by
  cases w with
  | commandUnit =>
    simp only [execWalkHopAccess] at he
    cases he
    split
    · split
      · next r p _ =>
        exact s.access_closed _ _ hs fun u hu =>
          (commandHandOn_gate _ r _).trans ((walkNext_did false r p u).gate.trans hu)
      · exact hs
    · exact hs
  | engine e =>
    simp only [execWalkHopAccess] at he
    cases he
    split
    · next r p _ =>
      exact s.access_closed _ _ hs fun u hu =>
        engineHandOn_closed e r ((walkNext_did true r.req p u).gate.trans hu)
    · exact hs

theorem execShortcutAccess_closed (w : Walker) (s t : State) (hs : s.gate = .closed)
    (he : execShortcutAccess w s = .next t) : t.gate = .closed := by
  cases w with
  | commandUnit =>
    simp only [execShortcutAccess] at he
    cases he
    split
    · split
      · exact s.access_closed _ _ hs fun u hu => (applyShortcut_gate _ u).trans hu
      · exact hs
    · exact hs
  | engine e =>
    simp only [execShortcutAccess] at he
    cases he
    split
    · exact s.access_closed _ _ hs fun u hu => settleEngine_closed e none ((applyShortcut_gate _ u).trans hu)
    · exact hs

/-! ### Every event but LINK_OPEN -/

/-- R149: no well-formed event but LINK_OPEN moves a CLOSED gate. -/
theorem exec_closed (i : Instr) (s t : State) (hi : i ≠ .linkOpen) (hw : i.wellFormed = true)
    (hs : s.gate = .closed) (he : exec i s = .next t) : t.gate = .closed := by
  cases i <;> simp only [exec] at he
  case linkOpen => exact absurd rfl hi
  case create => exact execCommand_closed .create (by decide) s t hs he
  case retire => exact execCommand_closed .retire (by decide) s t hs he
  case pin => exact execCommand_closed .pin (by decide) s t hs he
  case unpin => exact execCommand_closed .unpin (by decide) s t hs he
  case clearDirectory => exact execCommand_closed .clearDirectory (by decide) s t hs he
  case alter => exact execCommand_closed .alter (by decide) s t hs he
  case resize => exact execCommand_closed .resize (by decide) s t hs he
  case readRecord => exact execCommand_closed .readRecord (by decide) s t hs he
  case lookup => exact execCommand_closed .lookup (by decide) s t hs he
  case forward => exact execCommand_closed .forward (by decide) s t hs he
  case moveBegin => exact execCommand_closed .moveBegin (by decide) s t hs he
  case moveCommit => exact execCommand_closed .moveCommit (by decide) s t hs he
  case moveAbort => exact execCommand_closed .moveAbort (by decide) s t hs he
  case sweepStart => exact execCommand_closed .sweepStart (by decide) s t hs he
  case sweepStop => exact execCommand_closed .sweepStop (by decide) s t hs he
  case linkClose => exact execCommand_closed .linkClose (by decide) s t hs he
  case setPortDomain => exact execCommand_closed .setPortDomain (by decide) s t hs he
  case setConfig => exact execCommand_closed .setConfig (by decide) s t hs he
  case readConfig => exact execCommand_closed .readConfig (by decide) s t hs he
  case unknownCommand w =>
    rw [execUnknownCommand, Option.isNone_iff_eq_none.mp hw] at he
    cases he
    exact s.submit_closed _ hs hs
  case createAccess => cases he; exact s.commandAccess_closed _ _ hs fun _ _ h => (createBody_gate _ _).trans h
  case retireAccess => cases he; exact s.commandAccess_closed _ _ hs fun _ _ h => (retireBody_gate _ _).trans h
  case pinAccess => cases he; exact s.commandAccess_closed _ _ hs fun _ _ h => (pinBody_gate _ _).trans h
  case unpinAccess => cases he; exact s.commandAccess_closed _ _ hs fun _ _ h => (unpinBody_gate _ _).trans h
  case clearAccess => cases he; exact s.commandAccess_closed _ _ hs fun _ _ h => (clearBody_gate _ _).trans h
  case alterAccess => cases he; exact s.commandAccess_closed _ _ hs fun _ _ h => (alterBody_gate _ _).trans h
  case resizeAccess => cases he; exact s.commandAccess_closed _ _ hs fun _ _ h => (resizeBody_gate _ _).trans h
  case readRecordAccess => cases he; exact s.commandAccess_closed _ _ hs fun _ _ h => h
  case cacheEnAccess => cases he; exact s.commandAccess_closed _ _ hs fun _ _ h => h
  case moveBeginAccess =>
    cases he; exact s.commandAccess_closed _ _ hs fun _ _ h => (moveBeginBody_gate _ _).trans h
  case moveCommitAccess =>
    cases he; exact s.commandAccess_closed _ _ hs fun _ _ h => (endMoveBody_gate _ _ _ _).trans h
  case moveAbortAccess =>
    cases he; exact s.commandAccess_closed _ _ hs fun _ _ h => (endMoveBody_gate _ _ _ _).trans h
  case fromAccess =>
    cases he
    split
    · split
      · exact s.access_closed _ _ hs fun _ h => (fromBody_gate _ _ _ _).trans h
      · exact hs
    · exact hs
  case checkWalkAccess =>
    cases he
    split
    · split
      · exact s.access_closed _ _ hs fun _ h => (checkBody_gate _ _ _ _ _ _ _).trans h
      · exact hs
    · exact hs
  case forwardFinalAccess =>
    cases he
    split
    · split
      · exact s.access_closed _ _ hs fun _ h => (finalBody_gate _ _ _ _ _ _).trans h
      · exact hs
    · exact hs
  case walkFirstAccess w => exact execWalkFirstAccess_closed w s t hs he
  case walkHopAccess w => exact execWalkHopAccess_closed w s t hs he
  case shortcutAccess w => exact execShortcutAccess_closed w s t hs he
  case linkUnpinAccess e =>
    cases he
    split
    · exact s.access_closed _ _ hs fun _ h => settleEngine_closed e none ((linkUnpinBody_gate _ _).trans h)
    · exact hs
  case sweepVisit => cases he; exact s.access_closed _ _ hs fun _ h => (visitBody_gate _).trans h
  case expiryAccess =>
    cases he
    split
    · exact hs
    · exact s.access_closed _ _ hs fun _ h => (expireEntry_gate _ _).trans h
  case linkRequest =>
    cases he
    refine s.whenRunning_closed _ hs ?_
    dsimp only
    split <;> exact hs
  case responseAccept =>
    cases he
    refine s.whenRunning_closed _ hs ?_
    split
    · exact hs
    · exact State.testDrain_closed hs
  case walkTake =>
    cases he
    refine s.whenRunning_closed _ hs ?_
    split
    · exact hs
    · split
      · exact (takeRequest_gate _ _ _).trans hs
      · split
        · exact (takeRequest_gate _ _ _).trans hs
        · exact hs
  case tick => cases he; exact s.whenRunning_closed _ hs hs
  case expiry =>
    cases he
    refine s.whenRunning_closed _ hs ?_
    split <;> exact hs
  case resetAssert => cases he; rfl
  case resetRelease =>
    cases he
    split
    · rfl
    · exact hs
    · exact hs
  case windowReset v => exact execWindowReset_closed v s t hs he
  case windowResetComplete =>
    cases he
    split <;> exact hs
  case eventsWrite => cases he; exact s.whenRunning_closed _ hs hs
  case eventEnableWrite => cases he; exact s.whenRunning_closed _ hs hs
  case registerWrite w v =>
    cases w <;> simp only [execRegisterWrite] at he
    case command => cases hw
    case sweepSkipped => exact execWindowReset_closed v s t hs he
    case events | eventEnable | arg0 | arg1 | arg2 | arg3 =>
      cases he; exact s.whenRunning_closed _ hs hs
    all_goals cases he; exact hs

end Sys2Proof.Machine

namespace Sys2Proof.Safety

open Sys2Proof Sys2Proof.Machine

/-! ### Nothing is held at a CLOSED gate (R147, R149) -/

/-- The state of a CLOSED gate: no tag, no request in any place, both engines IDLE. -/
def LinkEmpty (s : State) : Prop :=
  (∀ port, (s.ports.get port).tags = []) ∧ requestsHeld s = [] ∧ s.engineA = .idle ∧ s.engineB = .idle

theorem LinkEmpty.engine {s : State} (h : LinkEmpty s) (e : EngineId) : s.engine e = .idle := by
  cases e
  · exact h.2.2.1
  · exact h.2.2.2

/-- No engine holds a request. -/
theorem LinkEmpty.noRequest {s : State} (h : LinkEmpty s) (e : EngineId) (r : LinkRequest) :
    requestOf (s.engine e) ≠ some r := by
  rw [h.engine e]
  intro hc
  cases hc

/-- Neither queue and no response holds one. -/
theorem LinkEmpty.queues {s : State} (h : LinkEmpty s) :
    s.lookupQueue = [] ∧ s.releaseQueue = [] ∧ s.responses = [] := by
  obtain ⟨_, hheld, _⟩ := h
  simp only [requestsHeld, List.append_eq_nil_iff, List.map_eq_nil_iff] at hheld
  obtain ⟨⟨⟨⟨⟨hl, _⟩, _⟩, _⟩, hr⟩, hresp⟩ := hheld
  exact ⟨hl, hr, hresp⟩

theorem LinkEmpty.notTaken {s : State} (h : LinkEmpty s) (r : LinkRequest)
    (released looked : List LinkRequest) : ¬ TakenFrom s r released looked := by
  obtain ⟨hl, hr, _⟩ := h.queues
  rintro (⟨ht, _⟩ | ⟨_, ht⟩)
  · rw [hr] at ht; cases ht
  · rw [hl] at ht; cases ht

/-- The drain condition, where every tag is that of a request held (R149). -/
theorem LinkLaw.linkEmpty {s : State} (h : LinkLaw s) (hd : s.drained = true) : LinkEmpty s := by
  obtain ⟨htags, ha, hb⟩ := s.drained_iff.mp hd
  refine ⟨htags, tagsOf_eq_nil fun port => ?_, ha, hb⟩
  exact List.perm_nil.mp (htags port ▸ (h port).2.2)

/-- Every request held once, and none at a CLOSED gate. -/
def LinkClosedLaw (s : State) : Prop := LinkLaw s ∧ ClosedLaw s

theorem linkClosedLaw_closed (clears : Bool) : ClosedUnder clears LinkClosedLaw := by
  rintro s t h ⟨hl, hs⟩
  refine ⟨linkLaw_closed clears h hl, ?_⟩
  have empty : s.gate = .closed → LinkEmpty s := hs
  cases h with
  | endsMove n _ _ base i entry =>
    intro hg
    obtain ⟨htags, hheld, hidle⟩ := empty hg
    exact ⟨htags, List.perm_nil.mp (hheld ▸ held_perm_endMove s n base i entry), hidle⟩
  | engineWalks e r p hr => exact fun hg => absurd hr ((empty hg).noRequest e r)
  | engineAnswers e r x next hr => exact fun hg => absurd hr ((empty hg).noRequest e r)
  | engineParks e r n next hr => exact fun hg => absurd hr ((empty hg).noRequest e r)
  | engineIdles e c hc =>
    intro hg
    rw [(empty hg).engine e] at hc
    cases hc
  | engineTakes e r released looked x _ hr => exact fun hg => absurd hr ((empty hg).notTaken r _ _)
  | takeAnswered r released looked x hr => exact fun hg => absurd hr ((empty hg).notTaken r _ _)
  | gateOpens | gateDrains =>
    intro hg
    cases hg
  | gateCloses hd => exact fun _ => hl.linkEmpty hd
  | requestAccepted r ho =>
    intro hg
    cases ho.symm.trans hg
  | responseAccepted r rest hr =>
    intro hg
    rw [(empty hg).queues.2.2] at hr
    cases hr
  | powersOn | resetsWindow => exact fun _ => ⟨fun port => congrArg PortState.tags (ports_reset port), rfl, rfl, rfl⟩
  | _ => exact hs

/-- Settles O60: no event but LINK_OPEN moves a CLOSED gate, and a drain ends with nothing in flight. -/
theorem onlyLinkOpenOpensTheGate : Obligations.OnlyLinkOpenOpensTheGate := by
  constructor
  case left =>
    intro i s t hw hs he ht
    by_contra hi
    exact ht (exec_closed i s t hi hw hs he)
  case right =>
    exact fun _ _ hl hs he => (closed_step (linkClosedLaw_closed true) (fun _ _ h => h) ⟨hl, hs⟩ he).2

/-! ### Generations (R9, R29) -/

/-- What can become of a record while the directory is not cleared: its generation does not fall, and WORN
stays WORN. -/
def Ages (r r' : Record) : Prop := r.gen.toNat ≤ r'.gen.toNat ∧ (r = .worn → r' = .worn)

theorem Ages.refl (r : Record) : Ages r r := ⟨Nat.le_refl _, id⟩

/-- A record in use or FREE at the same generation after. -/
theorem Ages.of_gen {r r' : Record} (h : r'.gen = r.gen) (hr : r ≠ .worn) : Ages r r' :=
  ⟨by rw [h], fun hw => absurd hw hr⟩

theorem ages_rewrites {r r' : Record} (h : Rewrites r r') : Ages r r' := by
  cases h with
  | same => exact Ages.refl _
  | live | moving | forwarded => exact Ages.of_gen rfl Record.noConfusion

theorem ages_alters {r r' : Record} (h : Alters r r') : Ages r r' := by
  cases h with
  | live | moving => exact Ages.of_gen rfl Record.noConfusion

theorem ages_spent {r : Record} (h : Spendable r) : Ages r (spent r.gen) := by
  refine ⟨?_, fun hw => absurd hw h.inUse.2⟩
  rw [spent_gen_toNat]
  have := r.gen.isLt
  split <;> omega

theorem ages_endMove (r : Record) (base : Word) : Ages r (r.endMove base) := by
  cases r with
  | moving g o => exact Ages.of_gen rfl Record.noConfusion
  | free | live | forwarded | worn => exact Ages.refl _

theorem generation_ages {s t : State} (n k : Nat) (r : Record)
    (ht : t.records = putRecord s.records n r) (hr : Ages (s.record n) r) :
    Ages (s.record k) (t.record k) := by
  rw [record_of_put s t n r ht]
  split
  · next hk => rw [hk]; exact hr
  · exact Ages.refl _

/-- R9, R29: the generation of a slot under an effect that does not clear the directory. A slot that comes
into use keeps its generation; that it was not WORN, the queue says. -/
theorem effect_generation {s t : State} (h : Effect false s t) (n : Nat) :
    (s.record n).gen.toNat ≤ (t.record n).gen.toNat
      ∧ (QueueLaw s → s.record n = .worn → t.record n = .worn) := by
  have of_ages : Ages (s.record n) (t.record n) →
      (s.record n).gen.toNat ≤ (t.record n).gen.toNat
        ∧ (QueueLaw s → s.record n = .worn → t.record n = .worn) := fun ha => ⟨ha.1, fun _ => ha.2⟩
  cases h with
  | rewrites k r hr => exact of_ages (generation_ages k n r rfl (ages_rewrites hr))
  | alters k r hr => exact of_ages (generation_ages k n r rfl (ages_alters hr))
  | resizes k g o args _ hr =>
    exact of_ages (generation_ages k n (.live g _) rfl (by rw [hr]; exact Ages.of_gen rfl Record.noConfusion))
  | allocates k rest args _ hn =>
    have hrec := record_of_put s { s with
      records := putRecord s.records k (.live (s.record k).gen (createdObject args)), freeQueue := rest }
      k (.live (s.record k).gen (createdObject args)) rfl n
    rw [hrec]
    by_cases hk : n = k
    · subst hk
      rw [if_pos rfl]
      refine ⟨Nat.le_refl _, fun hq hw => ?_⟩
      obtain ⟨g, hfree⟩ := hq.queuedFree (n := n) (by rw [hn]; exact List.mem_cons_self)
      rw [hfree] at hw
      cases hw
    · rw [if_neg hk]
      exact ⟨Nat.le_refl _, fun _ hw => hw⟩
  | retires k hr => exact of_ages (generation_ages k n (spent _) rfl (ages_spent hr))
  | forwards k cls target hr =>
    exact of_ages (generation_ages k n (.forwarded _ _ _) rfl (Ages.of_gen rfl hr.inUse.2))
  | opensMove hd o i args _ hr =>
    exact of_ages (generation_ages hd.slot n (.moving _ o) rfl
      (by rw [hr]; exact Ages.of_gen rfl Record.noConfusion))
  | endsMove k _ _ base => exact of_ages (generation_ages k n (Record.endMove _ _) rfl (ages_endMove _ _))
  | clearsAll hc | powersOn _ hc | resetsWindow hc => cases hc
  | _ => exact of_ages (Ages.refl _)

/-- What has become of slot `n` since `s`, with the queue exact if it was. -/
def AgedSince (s : State) (n : Nat) (t : State) : Prop :=
  (s.record n).gen.toNat ≤ (t.record n).gen.toNat
    ∧ (QueueLaw s → QueueLaw t ∧ (s.record n = .worn → t.record n = .worn))

theorem agedSince_closed (s : State) (n : Nat) : ClosedUnder false (AgedSince s n) := by
  rintro t u h ⟨hgen, hworn⟩
  obtain ⟨hgen', hworn'⟩ := effect_generation h n
  refine ⟨hgen.trans hgen', fun hq => ?_⟩
  obtain ⟨hqt, hw⟩ := hworn hq
  exact ⟨queueLaw_closed false h hqt, fun hs => hworn' hqt (hw hs)⟩

/-- Settles O59: no effect but those of a clear or a reset lowers a generation or revives a WORN slot. -/
theorem generationsNeverFall : Obligations.GenerationsNeverFall := by
  intro i s t n hi he
  obtain ⟨hgen, hworn⟩ := (closed_kept (agedSince_closed s n)).exec i s t
    ⟨Nat.le_refl _, fun hq => ⟨hq, id⟩⟩ (fun hc => by rw [hi] at hc; cases hc) he
  exact ⟨hgen, fun hq => (hworn hq).2⟩

/-! ### The laws at reset -/

theorem closedLaw_reset : ClosedLaw State.reset :=
  fun _ => ⟨fun port => by rw [ports_reset port], rfl, rfl, rfl⟩

theorem settingsLaw_reset : SettingsLaw State.reset :=
  (settingsLaw_iff _).mpr ⟨fieldLaw_powerOn, counterWithin_reset, List.nodup_nil, by decide⟩

theorem hopLaw_reset : HopLaw State.reset :=
  (hopLaw_iff _).mpr ⟨fieldLaw_powerOn.1, engineHops_idle rfl rfl, commandHops_none,
    fun _ hr => absurd hr List.not_mem_nil⟩

theorem sweepLaw_reset : SweepLaw State.reset :=
  (sweepLaw_iff _).mpr ⟨⟨nofun, nofun, fun _ => ⟨rfl, rfl⟩⟩, fun hn => absurd rfl hn,
    Nat.zero_le _, Nat.zero_le _⟩

theorem cacheLaw_reset : CacheLaw State.reset := CacheLaw.empty rfl

theorem pinLaw_reset : PinLaw State.reset := fun _ _ _ he => by cases he

/-- Settles O47: the directory, the moves, the queues, the ports and the settings as a reset leaves them. -/
theorem lawsHoldAtReset : Obligations.LawsHoldAtReset :=
  ⟨rfl, QueueLaw.cleared rfl rfl rfl, pinLaw_reset, MoveLaw.cleared rfl moves_reset,
    ExtentLaw.cleared rfl moves_reset ⟨nofun, nofun, nofun⟩, fun _ hp => absurd hp List.not_mem_nil,
    Nat.zero_le _, cacheLaw_reset, sweepLaw_reset, LinkLaw.reset ports_reset rfl, closedLaw_reset,
    hopLaw_reset, settingsLaw_reset⟩

end Sys2Proof.Safety

/-! ## The queue of events, the resets and arbitration (chapters 1, 3 and 9) -/

namespace Sys2Proof.Machine

open Sys2Proof Sys2Proof.Safety

/-! ### The queue of events (logs 1, 2, 4) -/

/-- Settles O1: a step on a queue that is not empty is by definition its front event. -/
theorem stepRunsTheFrontEvent : Obligations.StepRunsTheFrontEvent := fun _ _ => rfl

/-- A step on an empty queue is a core-clock cycle (log 4). -/
theorem step_empty (s : State) (hs : s.pending = []) : step s = .next s.clockCycle := by
  rw [step, hs]

/-- Outside the running phase, a window write or link event is lost. -/
theorem State.whenRunning_stopped (s : State) (write : State → State) (h : s.phase ≠ .running) :
    s.whenRunning write = s := by
  rcases s.whenRunning_cases write with e | ⟨hp, _⟩
  · exact e
  · exact absurd hp h

/-- Settles O2: the cycle counts within the interval, delivers a tick at its end, and is lost in a reset. -/
theorem emptyQueueCountsAClockCycle : Obligations.EmptyQueueCountsAClockCycle := by
  intro s hs
  rw [step_empty s hs]
  refine ⟨fun hp => ?stopped, fun hp hc => ?counts, fun hp hc => ?ticks⟩
  case stopped => rw [State.clockCycle, s.whenRunning_stopped _ hp]
  case counts => rw [State.clockCycle, s.whenRunning_running _ hp, if_pos hc]
  case ticks =>
    rw [State.clockCycle, s.whenRunning_running _ hp, if_neg (Nat.not_lt.mpr hc), exec, execTick,
      s.whenRunning_running _ hp]

/-- Every write of a window word answers a next state. -/
theorem execRegisterWrite_answers (w : WindowWord) (v : Word) (s : State) :
    ∃ t, execRegisterWrite w v s = .next t := by
  cases w with
  | command =>
    obtain ⟨accept, h⟩ := exec_unknownCommand_eq_submit v
    exact ⟨_, h s⟩
  | _ => exact ⟨_, rfl⟩

theorem exec_answers (i : Instr) (s : State) : ∃ t, exec i s = .next t := by
  cases i with
  | unknownCommand w =>
    obtain ⟨accept, h⟩ := exec_unknownCommand_eq_submit w
    exact ⟨_, h s⟩
  | registerWrite w v => exact execRegisterWrite_answers w v s
  | _ => exact ⟨_, rfl⟩

/-- Settles O3: every arm of the dispatch answers a next state, and no effect touches the queue. -/
theorem everyEventAnswersANextState : Obligations.EveryEventAnswersANextState := by
  intro i s
  obtain ⟨t, ht⟩ := exec_answers i s
  have hclosed : ClosedUnder true fun u => u.pending = s.pending :=
    fun _ _ h hu => (effect_pending h).trans hu
  exact ⟨t, ht, (closed_kept hclosed).exec i s t rfl (fun _ => rfl) ht⟩

/-! ### Accesses that are not granted (log 2) -/

theorem State.commandAccess_ungranted (s : State) (k : Cmd) (body : Quad Word → State → State)
    (h : s.granted ≠ some .commandUnit) : s.commandAccess k body = s := by
  rcases s.commandAccess_cases k body with e | ⟨_, hs, _⟩
  · exact e
  · exact absurd hs.2 h

/-- An ungranted access of a walker, whatever phase it is in. -/
theorem walkAccess_ungranted (w : Walker) (s : State) (h : s.granted ≠ some (walkerClient w)) :
    exec (.walkFirstAccess w) s = .next s ∧ exec (.walkHopAccess w) s = .next s
      ∧ exec (.shortcutAccess w) s = .next s := by
  cases w with
  | commandUnit =>
    have lost (body : State → State) : s.access .commandUnit body = s := s.access_ungranted _ body h
    simp only [exec, execWalkFirstAccess, execWalkHopAccess, execShortcutAccess, lost]
    refine ⟨?_, ?_, ?_⟩
    all_goals
      repeat' split
      all_goals rfl
  | engine e =>
    rw [walkerClient_engine] at h
    have lost (body : State → State) : s.access (engineClient e) body = s := s.access_ungranted _ body h
    simp only [exec, execWalkFirstAccess, execWalkHopAccess, execShortcutAccess, lost]
    refine ⟨?_, ?_, ?_⟩ <;> split <;> rfl

/-- Settles O7: every access event is the access of its client, and that happens only when granted. -/
theorem ungrantedAccessChangesNothing : Obligations.UngrantedAccessChangesNothing := by
  intro i c s hc hg
  cases i <;> cases hc
  case walkFirstAccess w => exact (walkAccess_ungranted w s hg).1
  case walkHopAccess w => exact (walkAccess_ungranted w s hg).2.1
  case shortcutAccess w => exact (walkAccess_ungranted w s hg).2.2
  case linkUnpinAccess e =>
    rw [walkerClient_engine] at hg
    simp only [exec, execLinkUnpinAccess, s.access_ungranted _ _ hg]
    split <;> rfl
  case sweepVisit => exact congrArg _ (s.access_ungranted _ _ hg)
  case expiryAccess =>
    simp only [exec, execExpiryAccess, s.access_ungranted _ _ hg]
    split <;> rfl
  case fromAccess =>
    simp only [exec, execFromAccess, s.access_ungranted _ _ hg]
    repeat' split
    all_goals rfl
  case checkWalkAccess =>
    simp only [exec, execCheckWalkAccess, s.access_ungranted _ _ hg]
    repeat' split
    all_goals rfl
  case forwardFinalAccess =>
    simp only [exec, execForwardFinalAccess, s.access_ungranted _ _ hg]
    repeat' split
    all_goals rfl
  all_goals exact congrArg _ (s.commandAccess_ungranted _ _ hg)

/-! ### Nothing acts during a reset (R43, R165, R166) -/

/-- A COMMAND write outside the running phase is lost. -/
theorem State.submit_stopped (s : State) (accept : Quad Word → State → State) (h : s.phase ≠ .running) :
    s.submit accept = s := by
  rw [State.submit]
  split
  · next hp => exact absurd hp h
  · rfl
  · rfl

theorem execUnknownCommand_stopped (w : Word) (s : State) (h : s.phase ≠ .running) :
    exec (.unknownCommand w) s = .next s := by
  obtain ⟨accept, hsubmit⟩ := exec_unknownCommand_eq_submit w
  rw [hsubmit, s.submit_stopped accept h]

theorem execRegisterWrite_stopped (w : WindowWord) (v : Word) (s : State) (h : s.phase ≠ .running) :
    execRegisterWrite w v s = .next s := by
  cases w with
  | command => exact execUnknownCommand_stopped v s h
  | arg0 | arg1 | arg2 | arg3 | events | eventEnable | sweepSkipped =>
    exact congrArg _ (s.whenRunning_stopped _ h)
  | _ => rfl

/-- Settles O6: accesses are not granted in a reset, and every other event is taken only while running. -/
theorem nothingActsDuringAReset : Obligations.NothingActsDuringAReset := by
  intro i s hp hi
  have hg (c : Client) : s.granted ≠ some c := by
    rw [s.granted_none hp]
    exact nofun
  cases hc : accessClient i with
  | some c => exact ungrantedAccessChangesNothing i c s hc (hg c)
  | none =>
    cases i with
    | resetAssert | resetRelease | windowResetComplete => cases hi
    | create | retire | pin | unpin | clearDirectory | alter | resize | readRecord | lookup | forward
    | moveBegin | moveCommit | moveAbort | sweepStart | sweepStop | linkOpen | linkClose | setPortDomain
    | setConfig | readConfig => exact congrArg _ (s.submit_stopped _ hp)
    | unknownCommand w => exact execUnknownCommand_stopped w s hp
    | registerWrite w v => exact execRegisterWrite_stopped w v s hp
    | linkRequest | responseAccept | walkTake | tick | expiry | windowReset | eventsWrite
    | eventEnableWrite => exact congrArg _ (s.whenRunning_stopped _ hp)
    | _ => cases hc

end Sys2Proof.Machine

namespace Sys2Proof.Machine

open Sys2Proof Sys2Proof.Safety

/-! ### The state the resets make (Table 9-8) -/

/-- What both resets make: the power-on state but for the queue of events, the phase and the settings. -/
def resetUnder (pending : List Instr) (phase : Phase) (domains : Quad (BitVec 4)) (config : ConfigFields)
    (enable : BitVec 6) : State :=
  { State.reset with
    pending := pending, phase := phase, portDomains := domains, config := config, eventEnable := enable
    interval := config.tickDiv }

theorem State.powerOn_eq_resetUnder (s : State) (phase : Phase) :
    { s.powerOn with phase := phase }
      = resetUnder s.pending phase ⟨1#4, 2#4, 3#4, 4#4⟩ powerOnConfig 0#6 := rfl

theorem State.windowResetState_eq_resetUnder (s : State) (phase : Phase) :
    { s.windowResetState with phase := phase }
      = resetUnder s.pending phase s.portDomains s.config s.eventEnable := rfl

theorem afterReset_resetUnder (pending : List Instr) (phase : Phase) (domains : Quad (BitVec 4))
    (config : ConfigFields) (enable : BitVec 6) :
    AfterReset (resetUnder pending phase domains config enable) where
  records _ := rfl
  freeQueue := rfl
  wornCount := rfl
  lastGranted := rfl
  cache := rfl
  epoch := rfl
  cmd := rfl
  args := rfl
  results := rfl
  lastOutcome := rfl
  lastCommand := rfl
  events := rfl
  engines := ⟨rfl, rfl⟩
  queues := ⟨rfl, rfl, rfl⟩
  moves := moves_reset
  parkList := rfl
  timer := ⟨rfl, rfl, rfl, rfl⟩
  sweepState := ⟨rfl, rfl⟩
  selection := rfl
  sweepCounts := ⟨rfl, rfl, rfl, rfl⟩
  gate := rfl
  ports := ports_reset
  acks p := by fin_cases p <;> rfl

theorem State.linkReady_iff (s : State) : s.linkReady = true ↔ s.phase = .running := beq_iff_eq

/-- R43, R150, R162: outside the running phase every output is silent. -/
theorem silent_of_stopped (s : State) (h : s.phase ≠ .running) : Silent s where
  granted := s.granted_none h
  irq := by rw [State.irqActive, beq_false_of_ne h, Bool.false_and]
  linkReady := beq_false_of_ne h
  response := if_neg (fun hr => h (s.linkReady_iff.mp hr))

/-- R165: while RESET is held no read of the window has a value. -/
theorem State.readWord_held (s : State) (w : WindowWord) (h : s.phase = .held) : s.readWord w = none :=
  if_pos h

theorem State.readWord_counts (s : State) (h : s.phase ≠ .held) : s.readWord .counts = some s.counts :=
  if_neg h

/-- COUNTS after a reset: 4095 free slots, none worn. -/
theorem counts_reset : State.reset.counts = 0x00000FFF#32 := by
  have hlength : State.reset.freeQueue.length = 4095 := List.length_range'
  rw [State.counts, hlength]
  rfl

/-- Table 9-1: every other word reads zero after power-on. -/
theorem readWord_reset (w : WindowWord) (hw : w ≠ .counts) : State.reset.readWord w = some 0#32 := by
  cases w with
  | counts => exact absurd rfl hw
  | _ => decide

/-- STATUS during a window reset: RESETTING alone. -/
theorem status_resetting : { State.reset with phase := .resetting }.readWord .status = some 2#32 := by
  decide

theorem irqActive_reset : State.reset.irqActive = false := by decide

/-- Settles O4: while RESET is held nothing is driven; its release leaves every block as at power-on. -/
theorem resetInputStopsAndResetsThePart : Obligations.ResetInputStopsAndResetsThePart := by
  refine fun s => ⟨⟨_, rfl, rfl, silent_of_stopped _ nofun, rfl, fun w => State.readWord_held _ w rfl⟩,
    fun hp => ⟨s.powerOn, ?released, rfl, ?blocks, rfl, rfl, irqActive_reset, rfl, rfl,
      rfl, ?counts, readWord_reset⟩⟩
  case released => rw [exec, execResetRelease, hp]
  case blocks => exact afterReset_resetUnder _ .running _ powerOnConfig _
  case counts => exact congrArg some counts_reset

/-! ### The window reset (R166, R167) -/

theorem exec_windowReset_running (v : Word) (s : State) (hp : s.phase = .running) :
    exec (.windowReset v) s
      = .next (if v.getLsbD 0 = true then { s.windowResetState with phase := .resetting } else s) :=
  congrArg _ (s.whenRunning_running _ hp)

/-- Settles O5: the write makes the reset state under the settings kept, the completion ends it. -/
theorem windowResetKeepsTheSettings : Obligations.WindowResetKeepsTheSettings := by
  refine ⟨fun s v hp => ?write, fun s hp => ?completion⟩
  case write =>
    rw [exec_windowReset_running v s hp]
    refine ⟨fun hv => ?set, fun hv => ?clear⟩
    case set =>
      rw [if_pos hv]
      exact ⟨_, rfl, rfl, afterReset_resetUnder _ _ _ _ _, silent_of_stopped _ nofun, rfl, rfl, rfl, rfl,
        status_resetting⟩
    case clear => rw [if_neg (by rw [hv]; exact Bool.false_ne_true)]
  case completion => rw [exec, execWindowResetComplete, hp]

/-! ### The rotation (R38 to R40) -/

theorem place_le (c : Client) : place c ≤ 4 := by cases c <;> decide

/-- The rotation, read at a client's place, gives the client back. -/
theorem place_injective : Function.Injective place :=
  Function.LeftInverse.injective (g := fun n => (rotationAfter .moveTimer).getD n .commandUnit)
    fun c => by cases c <;> rfl

theorem turns_le (last c : Client) : turns last c ≤ 4 :=
  Nat.le_of_lt_succ (Nat.mod_lt _ (by decide))

/-- No two clients stand at the same distance in the rotation. -/
theorem turns_injective {last c d : Client} (h : turns last c = turns last d) : c = d := by
  refine place_injective ?_
  have := place_le last
  have := place_le c
  have := place_le d
  simp only [turns] at h
  omega

/-- A client farther on stands so much nearer once the one before it was granted. -/
theorem turns_after {last c d : Client} (h : turns last d < turns last c) :
    turns d c + turns last d + 1 = turns last c := by
  have := place_le last
  have := place_le c
  have := place_le d
  simp only [turns] at h ⊢
  omega

/-- The rotation lists every client, by its distance. -/
theorem mem_rotationAfter (last c : Client) : c ∈ rotationAfter last := by
  cases last <;> cases c <;> decide

theorem rotationAfter_pairwise (last : Client) :
    (rotationAfter last).Pairwise fun c d => turns last c < turns last d := by
  cases last <;> decide

/-- The first client of the rotation to pass a test is the nearest that passes it. -/
theorem find_rotationAfter_nearest {last c : Client} {p : Client → Bool}
    (h : (rotationAfter last).find? p = some c) :
    p c = true ∧ ∀ d, p d = true → turns last c ≤ turns last d := by
  obtain ⟨hc, before, after, hl, hbefore⟩ := List.find?_eq_some_iff_append.mp h
  refine ⟨hc, fun d hd => ?_⟩
  have hsorted := rotationAfter_pairwise last
  have hmem := mem_rotationAfter last d
  rw [hl] at hsorted hmem
  rcases List.mem_append.mp hmem with hd' | hd'
  · have := hbefore d hd'
    rw [hd] at this
    cases this
  · rcases List.mem_cons.mp hd' with rfl | hd'
    · exact Nat.le_refl _
    · exact Nat.le_of_lt (List.rel_of_pairwise_cons (List.pairwise_append.mp hsorted).2.1 hd')

/-- Where some client passes a test, the rotation finds one. -/
theorem find_rotationAfter_exists {last c : Client} {p : Client → Bool} (h : p c = true) :
    ∃ d, (rotationAfter last).find? p = some d :=
  Option.isSome_iff_exists.mp (List.find?_isSome.mpr ⟨c, mem_rotationAfter last c, h⟩)

theorem State.granted_running (s : State) (h : s.phase = .running) :
    s.granted = (rotationAfter s.lastGranted).find? s.waiting := if_pos h

theorem State.waiting_iff (s : State) :
    (s.waiting .commandUnit = true ↔ s.cmd ≠ none)
      ∧ (s.waiting .engineA = true ↔ s.engineA ≠ .idle) ∧ (s.waiting .engineB = true ↔ s.engineB ≠ .idle)
      ∧ (s.waiting .sweepUnit = true ↔ s.sweep.state ≠ .idle)
      ∧ (s.waiting .moveTimer = true ↔ s.pendingExpiries ≠ [] ∨ s.expired ≠ []) :=
  ⟨Option.isSome_iff_ne_none, bne_iff_ne, bne_iff_ne, bne_iff_ne, s.waiting_moveTimer⟩

/-- R40: the client granted is the nearest one waiting. -/
theorem State.granted_iff (s : State) (hp : s.phase = .running) (c : Client) :
    s.granted = some c ↔
      s.waiting c = true ∧ ∀ d, s.waiting d = true → turns s.lastGranted c ≤ turns s.lastGranted d := by
  rw [s.granted_running hp]
  refine ⟨find_rotationAfter_nearest, fun ⟨hc, hnear⟩ => ?_⟩
  obtain ⟨d, hd⟩ := find_rotationAfter_exists (last := s.lastGranted) hc
  obtain ⟨hwaits, hfirst⟩ := find_rotationAfter_nearest hd
  rw [hd, turns_injective (Nat.le_antisymm (hnear d hwaits) (hfirst c hc))]

/-- Settles O8: a grant is the nearest waiting client of the rotation, so each brings the others nearer. -/
theorem grantsFollowTheRotation : Obligations.GrantsFollowTheRotation := by
  refine ⟨State.waiting_iff, fun s hp => ⟨s.granted_iff hp, fun ⟨c, hc⟩ => ?granted,
    fun c d hc hd hne => ?nearer⟩⟩
  case granted =>
    rw [s.granted_running hp]
    exact find_rotationAfter_exists hc
  case nearer =>
    have hle := ((s.granted_iff hp d).mp hd).2 c hc
    have hlt : turns s.lastGranted d < turns s.lastGranted c :=
      Nat.lt_of_le_of_ne hle fun h => hne (turns_injective h)
    have := turns_after hlt
    exact ⟨by omega, turns_le _ _⟩

end Sys2Proof.Machine

/-! ## The Control Window: writes, events and the words read (chapter 9) -/

namespace Sys2Proof.Machine

open Sys2Proof Sys2Proof.Safety

/-! ### Register writes (R152, R157, Table 9-1) -/

/-- A write of a word with no row of its own is the write of that word. -/
theorem windowWrite_register {select : BitVec 4} {w : WindowWord} (v : Word) (hw : wordAt select = w)
    (hrow : w ∉ [.command, .events, .eventEnable, .sweepSkipped]) :
    windowWrite select v = .registerWrite w v := by
  subst hw
  rw [windowWrite]
  cases hs : wordAt select with
  | command | events | eventEnable | sweepSkipped => exact absurd (by rw [hs]; decide) hrow
  | _ => rfl

/-- Table 9-1: the words at other offsets than those of COMMAND, EVENTS, EVENT_ENABLE and WINDOW_RESET. -/
theorem windowLayout_register : ∀ p ∈ windowLayout, p.1 ∉ [0x00, 0x24, 0x28, 0x38] →
    p.2 ∉ [WindowWord.command, .events, .eventEnable, .sweepSkipped] := by decide

theorem windowWrite_windowReset (v : Word) :
    windowWrite (selectOf 0x38) v
      = if v.getLsbD 0 = true then .windowReset v else .registerWrite .sweepSkipped v := rfl

/-- Table 9-4: each code of the table names the command whose row stands beside it. -/
theorem commandTable_names : ∀ p ∈ commandTable, (commandOfCode p.1).map Cmd.row = some p.2 := by decide

theorem windowWrite_command (v : Word) (k : Cmd) (h : commandOfCode (v.extractLsb' 0 8) = some k) :
    windowWrite (selectOf 0x00) v = k.row := by
  change commandRow v = k.row
  rw [commandRow, commandCode, h]

theorem windowWrite_noCommand (v : Word) (h : commandOfCode (v.extractLsb' 0 8) = none) :
    windowWrite (selectOf 0x00) v = .unknownCommand v := by
  change commandRow v = .unknownCommand v
  rw [commandRow, commandCode, h]

/-- The codes of Table 9-4 are the codes of the commands. -/
theorem allCmds_codes : allCmds.map Cmd.code = commandTable.map Prod.fst := by decide

/-- Settles O11: the argument words are stored, the read-only ones ignored, and each offset has its row. -/
theorem registerWritesReachTheArgumentWordsAlone : Obligations.RegisterWritesReachTheArgumentWordsAlone := by
  refine fun s v => ⟨fun hp => ?arguments, fun w hw => ?readOnly, fun hv => ?sweepSkipped,
    fun p hp hcode => ?command, fun hcode => ?noCommand, rfl, rfl, fun hv => ?resets, fun hv => ?skips,
    fun p hp hrow => windowWrite_register v (wordAt_layout p hp) (windowLayout_register p hp hrow)⟩
  case arguments =>
    have written (write : State → State) : s.whenRunning write = write s := s.whenRunning_running _ hp
    exact ⟨congrArg _ (written _), congrArg _ (written _), congrArg _ (written _), congrArg _ (written _)⟩
  case readOnly =>
    cases w with
    | res0 | res1 | res2 | status | counts | sweepCursor | sweepCounts | epoch => rfl
    | command | arg0 | arg1 | arg2 | arg3 | events | eventEnable | sweepSkipped =>
      exact absurd hw (by decide)
  case sweepSkipped =>
    have hkeeps : ∀ u : State, (if bitOf v 0 then { u.windowResetState with phase := .resetting } else u) = u :=
      fun u => if_neg (by rw [bitOf, hv]; exact Bool.false_ne_true)
    rw [exec, execRegisterWrite, execWindowReset]
    simp only [hkeeps]
    rcases s.whenRunning_cases fun u => u with e | ⟨_, e⟩ <;> rw [e]
  case command =>
    obtain ⟨k, hk, hrow⟩ := Option.map_eq_some_iff.mp (commandTable_names p hp)
    exact (windowWrite_command v k (hcode ▸ hk)).trans hrow
  case noCommand =>
    refine windowWrite_noCommand v ((commandOfCode_eq_none_iff _).mpr fun hmem => ?_)
    rw [allCmds_codes] at hmem
    obtain ⟨p, hp, heq⟩ := List.mem_map.mp hmem
    exact hcode p hp heq.symm
  case resets => rw [windowWrite_windowReset, if_pos hv]
  case skips => rw [windowWrite_windowReset, if_neg (by rw [hv]; exact Bool.false_ne_true)]

/-! ### Event flags and the interrupt (R161, R162) -/

/-- A write of EVENTS clears the flags it marks. -/
theorem getLsbD_clearedBy (events : BitVec 6) (v : Word) (i : Nat) (hi : i < 6) :
    (clearedBy events v).getLsbD i = (events.getLsbD i && !v.getLsbD i) := by
  simp [clearedBy, hi]

theorem exec_eventsWrite_running (v : Word) (s : State) (hp : s.phase = .running) :
    exec (.eventsWrite v) s = .next { s with events := clearedBy s.events v } :=
  congrArg _ (s.whenRunning_running _ hp)

theorem exec_eventEnableWrite_running (v : Word) (s : State) (hp : s.phase = .running) :
    exec (.eventEnableWrite v) s = .next { s with eventEnable := v.extractLsb' 0 6 } :=
  congrArg _ (s.whenRunning_running _ hp)

/-- Two words of flags have a bit in common. -/
theorem and_ne_zero_iff {n : Nat} (x y : BitVec n) :
    x &&& y ≠ 0#n ↔ ∃ i, i < n ∧ x.getLsbD i = true ∧ y.getLsbD i = true := by
  constructor
  · contrapose!
    intro h
    refine BitVec.eq_of_getLsbD_eq fun i hi => ?_
    rw [BitVec.getLsbD_and, BitVec.getLsbD_zero, Bool.and_eq_false_imp]
    exact fun hx => Bool.eq_false_iff.mpr (h i hi hx)
  · rintro ⟨i, _, hx, hy⟩ hz
    have := congrArg (fun w => w.getLsbD i) hz
    simp only [BitVec.getLsbD_and, hx, hy, BitVec.getLsbD_zero] at this
    cases this

/-- Settles O12: the flags a write leaves, the enables it sets, and IRQ as a flag with its enable. -/
theorem eventFlagsEnablesAndTheInterrupt : Obligations.EventFlagsEnablesAndTheInterrupt := by
  refine fun s v hp => ⟨⟨_, exec_eventsWrite_running v s hp, rfl, getLsbD_clearedBy _ v⟩,
    ⟨_, exec_eventEnableWrite_running v s hp, rfl, fun i hi => ?enables⟩, ?irq⟩
  case enables => simp [hi]
  case irq =>
    rw [← and_ne_zero_iff, State.irqActive, hp, beq_self_eq_true, Bool.true_and, bne_iff_ne]

/-! ### Fields of a word (Table 9-2) -/

/-- The lowest bit of a word that ends in a flag. -/
theorem getLsbD_append_flag {n : Nat} (x : BitVec n) (b : Bool) : (x ++ bit1 b).getLsbD 0 = b := by
  rw [BitVec.getLsbD_append, if_pos (by decide)]
  cases b <;> rfl

/-- A bit above the lowest field is a bit of the rest. -/
theorem getLsbD_append_above {n m : Nat} (x : BitVec n) (y : BitVec m) {i : Nat} (h : m ≤ i) :
    (x ++ y).getLsbD i = x.getLsbD (i - m) := by
  rw [BitVec.getLsbD_append, if_neg (Nat.not_lt.mpr h)]

theorem zero_append_eq_setWidth {n m : Nat} (x : BitVec m) : 0#n ++ x = x.setWidth (n + m) := by
  refine BitVec.eq_of_toNat_eq ?_
  have hx : x.toNat < 2 ^ (n + m) :=
    Nat.lt_of_lt_of_le x.isLt (Nat.pow_le_pow_right (by decide) (Nat.le_add_left _ _))
  rw [BitVec.toNat_append, BitVec.toNat_setWidth, Nat.mod_eq_of_lt hx]
  simp

theorem zero_append_ofNat {n m k : Nat} (h : k < 2 ^ m) : 0#n ++ BitVec.ofNat m k = BitVec.ofNat (n + m) k := by
  rw [zero_append_eq_setWidth]
  refine BitVec.eq_of_toNat_eq ?_
  rw [BitVec.toNat_setWidth, BitVec.toNat_ofNat, BitVec.toNat_ofNat, Nat.mod_eq_of_lt h]

/-- A counter within the width of its field reads whole. -/
theorem toNat_ofNat_within {m k : Nat} (h : k < 2 ^ m) : (BitVec.ofNat m k).toNat = k := by
  rw [BitVec.toNat_ofNat, Nat.mod_eq_of_lt h]

theorem status_busy (s : State) : s.status.getLsbD 0 = s.busy := getLsbD_append_flag _ _

theorem status_phase (s : State) : s.status.getLsbD 1 = (s.phase == .resetting) :=
  (getLsbD_append_above _ _ (by decide)).trans (getLsbD_append_flag _ _)

/-- The fields of STATUS above its two flags, from the lowest to the highest. -/
theorem status_fields (s : State) :
    s.status.extractLsb' 2 6 = 0#6 ∧ s.status.extractLsb' 8 8 = s.lastOutcome.code
      ∧ s.status.extractLsb' 16 2 = s.gate.code ∧ s.status.extractLsb' 18 2 = s.sweep.state.code
      ∧ s.status.extractLsb' 20 2 = s.sweep.endKind.code ∧ s.status.extractLsb' 22 2 = 0#2
      ∧ s.status.extractLsb' 24 8 = s.lastCommand := by
  rw [State.status]
  refine ⟨?_, ?_, ?_, ?_, ?_, ?_, ?last⟩
  case last =>
    repeat rw [BitVec.extractLsb'_append_eq_of_le (by decide)]
    exact BitVec.extractLsb'_eq_self
  all_goals
    repeat rw [BitVec.extractLsb'_append_eq_of_le (by decide)]
    exact BitVec.extractLsb'_append_eq_right

theorem Gate.code_iff (g : Gate) :
    (g.code = 0#2 ↔ g = .closed) ∧ (g.code = 1#2 ↔ g = .draining) ∧ (g.code = 2#2 ↔ g = .opened) := by
  cases g <;> decide

theorem SweepState.code_iff (x : SweepState) :
    (x.code = 0#2 ↔ x = .idle) ∧ (x.code = 1#2 ↔ x = .running) ∧ (x.code = 2#2 ↔ x = .stopping) := by
  cases x <;> decide

theorem EndKind.code_iff (k : EndKind) :
    (k.code = 0#2 ↔ k = .none) ∧ (k.code = 1#2 ↔ k = .done) ∧ (k.code = 2#2 ↔ k = .stopped) := by
  cases k <;> decide

/-- Table 4-2 gives every outcome its code. -/
theorem mem_outcomeTable (o : OutcomeCode) : (o, o.code) ∈ outcomeTable := by
  cases o <;> decide

theorem outcomeTable_code : ∀ p ∈ outcomeTable, p.1.code = p.2 := by decide

theorem mem_ackTable (a : AckResult) : (a, a.code) ∈ ackTable := by
  cases a <;> decide

theorem ackTable_code : ∀ p ∈ ackTable, p.1.code = p.2 := by decide

/-- The words with two counters of twelve bits, COUNTS and SWEEP_COUNTS. -/
def twoCounters (high low : Nat) : Word := 0#4 ++ BitVec.ofNat 12 high ++ 0#4 ++ BitVec.ofNat 12 low

theorem State.counts_eq (s : State) : s.counts = twoCounters s.wornCount s.freeQueue.length := rfl

theorem State.sweepCounts_eq (s : State) : s.sweepCounts = twoCounters s.sweep.acted s.sweep.matched := rfl

theorem twoCounters_fields {high low : Nat} (hh : high ≤ 4095) (hl : low ≤ 4095) :
    ((twoCounters high low).extractLsb' 0 12).toNat = low
      ∧ ((twoCounters high low).extractLsb' 16 12).toNat = high
      ∧ (twoCounters high low).extractLsb' 12 4 = 0#4 ∧ (twoCounters high low).extractLsb' 28 4 = 0#4 := by
  have hlow : (twoCounters high low).extractLsb' 0 12 = BitVec.ofNat 12 low :=
    BitVec.extractLsb'_append_eq_right
  have hhigh : (twoCounters high low).extractLsb' 16 12 = BitVec.ofNat 12 high := by
    rw [twoCounters]
    repeat rw [BitVec.extractLsb'_append_eq_of_le (by decide)]
    exact BitVec.extractLsb'_append_eq_right
  rw [hlow, hhigh, toNat_ofNat_within (by omega), toNat_ofNat_within (by omega), twoCounters]
  refine ⟨rfl, rfl, ?between, ?above⟩
  case between =>
    repeat rw [BitVec.extractLsb'_append_eq_of_le (by decide)]
    exact BitVec.extractLsb'_append_eq_right
  case above =>
    repeat rw [BitVec.extractLsb'_append_eq_of_le (by decide)]
    exact BitVec.extractLsb'_eq_self

/-- Outside a held RESET every read has a value. -/
theorem State.readWord_status (s : State) (h : s.phase ≠ .held) : s.readWord .status = some s.status :=
  if_neg h

theorem State.readWord_sweepCounts (s : State) (h : s.phase ≠ .held) :
    s.readWord .sweepCounts = some s.sweepCounts := if_neg h

/-! ### The words of a response (Table 8-1) -/

theorem response_word0_fields (r : Response) :
    r.word0.extractLsb' 0 2 = BitVec.ofNat 2 r.port.val ∧ r.word0.extractLsb' 2 2 = 0#2
      ∧ r.word0.extractLsb' 4 4 = r.tag ∧ r.word0.extractLsb' 8 8 = r.result.outcome.code
      ∧ r.word0.extractLsb' 16 4 = BitVec.ofNat 4 r.result.hops
      ∧ r.word0.getLsbD 20 = r.result.fromCache ∧ r.word0.extractLsb' 21 11 = 0#11 := by
  rw [Response.word0]
  refine ⟨?_, ?_, ?_, ?_, ?_, ?flag, ?above⟩
  case flag =>
    repeat rw [getLsbD_append_above _ _ (by decide)]
    exact getLsbD_append_flag _ _
  case above =>
    repeat rw [BitVec.extractLsb'_append_eq_of_le (by decide)]
    exact BitVec.extractLsb'_eq_self
  all_goals
    repeat rw [BitVec.extractLsb'_append_eq_of_le (by decide)]
    exact BitVec.extractLsb'_append_eq_right

theorem responseWords (r : Response) (h : r.result.hops ≤ 15) : ResponseWords r := by
  obtain ⟨hport, hreserved, htag, houtcome, hhops, hcache, hhigh⟩ := response_word0_fields r
  refine ⟨?_, hreserved, htag, ?_, ?_, hcache, hhigh, rfl, rfl⟩
  · rw [hport, toNat_ofNat_within r.port.isLt]
  · rw [houtcome]
    exact mem_outcomeTable _
  · rw [hhops, toNat_ofNat_within (by omega)]

theorem State.responseChannel_running (s : State) (h : s.phase = .running) :
    s.responseChannel = s.responses.head? := if_pos (s.linkReady_iff.mpr h)

/-- The fields of STATUS, in the terms of Table 9-2. -/
theorem status_shows (s : State) :
    (s.status.getLsbD 0 = true ↔ s.cmd ≠ none) ∧ (s.status.getLsbD 1 = true ↔ s.phase = .resetting) := by
  rw [status_busy, status_phase]
  exact ⟨Option.isSome_iff_ne_none, beq_iff_eq⟩

/-- Settles O13: each word field by field, the tables of codes, and the words of a response. -/
theorem statusWordsShowTheState : Obligations.StatusWordsShowTheState := by
  refine ⟨fun s hp hfree hworn hmatched hacted => ⟨?status, ?counts, ?sweepCounts⟩, fun s hp => ?words,
    fun s p hp => ?layout,
    ⟨outcomeTable_code, fun o => ⟨_, mem_outcomeTable o⟩, ackTable_code, fun a => ⟨_, mem_ackTable a⟩⟩,
    responseWords, State.responseChannel_running⟩
  case status =>
    obtain ⟨hreserved, houtcome, hgate, hsweep, hend, hhigh, hlast⟩ := status_fields s
    obtain ⟨hbusy, hresetting⟩ := status_shows s
    refine ⟨_, s.readWord_status hp, hbusy, hresetting, ?_⟩
    rw [houtcome, hgate, hsweep, hend]
    obtain ⟨hclosed, hdraining, hopened⟩ := s.gate.code_iff
    obtain ⟨hidle, hrunning, hstopping⟩ := s.sweep.state.code_iff
    obtain ⟨hnone, hdone, hstopped⟩ := s.sweep.endKind.code_iff
    exact ⟨mem_outcomeTable _, hclosed, hdraining, hopened, hidle, hrunning, hstopping, hnone, hdone,
      hstopped, hlast, hreserved, hhigh⟩
  case counts => exact ⟨_, s.readWord_counts hp, twoCounters_fields hworn hfree⟩
  case sweepCounts => exact ⟨_, s.readWord_sweepCounts hp, twoCounters_fields hacted hmatched⟩
  case words =>
    have shown (w : Word) : (if s.phase = .held then none else some w) = some w := if_neg hp
    refine ⟨shown _, shown _, shown _, shown _, shown _, shown _, shown _, shown _, ?_, ?_, ?_, ?_, ?_⟩
    · exact (shown _).trans (congrArg some (zero_append_eq_setWidth _))
    · exact (shown _).trans (congrArg some (zero_append_eq_setWidth _))
    · exact (shown _).trans (congrArg some (zero_append_eq_setWidth _))
    · exact fun hc => (shown _).trans (congrArg some (zero_append_ofNat (by omega)))
    · exact fun hc => (shown _).trans (congrArg some (zero_append_ofNat (by omega)))
  case layout => rw [State.readAt, wordAt_layout p hp]

end Sys2Proof.Machine

/-! ## The window's PIN and UNPIN, and the Lookup Link (chapters 2, 4 and 8) -/

namespace Sys2Proof.Machine

open Sys2Proof Sys2Proof.Safety

/-! ### PIN and UNPIN (R32, R33) -/

theorem pinTarget_refused (h : Handle) (r : Record) (o : OutcomeCode) (ho : namedCheck h r = some o) :
    pinTarget h r = .error o := by
  simp only [pinTarget, ho]

@[simp] theorem pinTarget_moving_same (h : Handle) (o : Object) :
    pinTarget h (.moving h.gen o) = .error .moving := by
  rw [pinTarget, namedCheck_moving_same]

@[simp] theorem pinTarget_forwarded_same (h : Handle) (c : BitVec 8) (target : Handle) :
    pinTarget h (.forwarded h.gen c target) = .error .notLive := by
  rw [pinTarget, namedCheck_forwarded_same]

@[simp] theorem pinTarget_live_same (h : Handle) (o : Object) : pinTarget h (.live h.gen o) = .ok o := by
  rw [pinTarget, namedCheck_live_same]

/-- The access of PIN or of UNPIN: a pin count changed, or at its limit the refusal. -/
def holdBody (k : Cmd) (limit : BitVec 8) (atLimit : OutcomeCode) (change : BitVec 8 → BitVec 8)
    (count : Nat → Nat) (args : Quad Word) (s : State) : State :=
  let h := Handle.ofWord args.at0
  match pinTarget h (s.record h.slot) with
  | .error o => s.finish k o
  | .ok o =>
    if o.pins = limit then s.finish k atLimit
    else
      (s.setRecord h.slot (.live h.gen { o with pins := change o.pins })).complete k.code .done
        ⟨wordOf (count o.pins.toNat), 0#32, 0#32⟩

theorem exec_pinAccess_eq (s : State) : exec .pinAccess s
    = .next (s.commandAccess .pin (holdBody .pin 255#8 .pinLimit (· + 1#8) (· + 1))) := rfl

theorem exec_unpinAccess_eq (s : State) : exec .unpinAccess s
    = .next (s.commandAccess .unpin (holdBody .unpin 0#8 .unpinUnderflow (· - 1#8) (· - 1))) := rfl

section
variable {k : Cmd} {limit : BitVec 8} {atLimit : OutcomeCode} {change : BitVec 8 → BitVec 8}
  {count : Nat → Nat}

theorem holdBody_error (args : Quad Word) (s : State) (h : Handle) (hh : Handle.ofWord args.at0 = h)
    (o : OutcomeCode) (ho : pinTarget h (s.record h.slot) = .error o) :
    holdBody k limit atLimit change count args s = s.finish k o := by
  simp only [holdBody, hh, ho]

theorem holdBody_live (args : Quad Word) (s : State) (h : Handle) (hh : Handle.ofWord args.at0 = h)
    (o : Object) (hr : s.record h.slot = .live h.gen o) :
    holdBody k limit atLimit change count args s = if o.pins = limit then s.finish k atLimit
      else (s.setRecord h.slot (.live h.gen { o with pins := change o.pins })).complete k.code .done
        ⟨BitVec.ofNat 32 (count o.pins.toNat), 0#32, 0#32⟩ := by
  simp only [holdBody, hh, hr, pinTarget_live_same]
  rfl

/-- R32, R33: the refusals in their order, the limit of the count, and the count that changes. -/
theorem holdAccess_counts (i : Instr) (s : State) (args : Quad Word) (h : Handle)
    (he : exec i s = .next (s.commandAccess k (holdBody k limit atLimit change count)))
    (hs : ServesHandle s k args h) :
    (s.record h.slot = .worn → exec i s = .next (served s k.code .worn 0#32 0#32 0#32))
      ∧ (Stale h (s.record h.slot) → exec i s = .next (served s k.code .stale 0#32 0#32 0#32))
      ∧ (∀ o, s.record h.slot = .moving h.gen o →
          exec i s = .next (served s k.code .moving 0#32 0#32 0#32))
      ∧ (∀ c target, s.record h.slot = .forwarded h.gen c target →
          exec i s = .next (served s k.code .notLive 0#32 0#32 0#32))
      ∧ (∀ o, s.record h.slot = .live h.gen o → o.pins = limit →
          exec i s = .next (served s k.code atLimit 0#32 0#32 0#32))
      ∧ (∀ o, s.record h.slot = .live h.gen o → o.pins ≠ limit → ∃ t, exec i s = .next t
          ∧ t.record h.slot = .live h.gen { o with pins := change o.pins } ∧ RecordsAgreeBut s t h.slot
          ∧ t = served { s with records := t.records } k.code .done
                  (BitVec.ofNat 32 (count o.pins.toNat)) 0#32 0#32) := by
  have hh := servesHandle_ofWord s k args h hs
  rw [s.commandAccess_served k args _ hs.1] at he
  have refused (o : OutcomeCode) (ho : pinTarget h (s.record h.slot) = .error o) :
      exec i s = .next (served s k.code o 0#32 0#32 0#32) :=
    he.trans (congrArg _ (holdBody_error args (s.grant .commandUnit) h hh o ho))
  have live (o : Object) (hl : s.record h.slot = .live h.gen o) :=
    holdBody_live (k := k) (limit := limit) (atLimit := atLimit) (change := change) (count := count)
      args (s.grant .commandUnit) h hh o hl
  exact ⟨fun hw => refused _ (pinTarget_refused h _ _ (namedCheck_worn _ _ hw)),
    fun hst => refused _ (pinTarget_refused h _ _ (namedCheck_stale _ _ hst)),
    fun o hm => refused _ (by rw [hm, pinTarget_moving_same]),
    fun c target hf => refused _ (by rw [hf, pinTarget_forwarded_same]),
    fun o hl hp => he.trans (congrArg _ ((live o hl).trans (if_pos hp))),
    fun o hl hp => exists_served_put (u := s) (he.trans (congrArg _ ((live o hl).trans (if_neg hp))))⟩

end

/-- Settles O17: both accesses change a count, one up to 255 and one down to 0. -/
theorem pinAndUnpinCountHolds : Obligations.PinAndUnpinCountHolds :=
  ⟨fun s args h hs => (holdAccess_counts .pinAccess s args h (exec_pinAccess_eq s) hs :),
    fun s args h hs => (holdAccess_counts .unpinAccess s args h (exec_unpinAccess_eq s) hs :)⟩

/-! ### Takes by the walk engines (R80) -/

theorem State.takingEngine_none (s : State) (ha : s.engineA ≠ .idle) (hb : s.engineB ≠ .idle) :
    s.takingEngine = none := by
  rw [State.takingEngine, if_neg ha, if_neg hb]

/-- Walk Engine A before B (R80). -/
theorem State.takingEngine_some (s : State) (e : EngineId)
    (he : (e = .a ∧ s.engineA = .idle) ∨ (e = .b ∧ s.engineA ≠ .idle ∧ s.engineB = .idle)) :
    s.takingEngine = some e := by
  rcases he with ⟨rfl, ha⟩ | ⟨rfl, ha, hb⟩
  · rw [State.takingEngine, if_pos ha]
  · rw [State.takingEngine, if_neg ha, if_pos hb]

/-- A take by an engine, of the head of the Release Queue before that of the Lookup Queue. -/
theorem exec_walkTake_taken (s s1 : State) (e : EngineId) (r : LinkRequest) (hp : s.phase = .running)
    (he : s.takingEngine = some e)
    (hr : (∃ rest, s.releaseQueue = r :: rest ∧ s1 = { s with releaseQueue := rest })
      ∨ (∃ rest, s.releaseQueue = [] ∧ s.lookupQueue = r :: rest
          ∧ s1 = { s with lookupQueue := rest })) :
    exec .walkTake s = .next (takeRequest e r s1) := by
  rw [exec, execWalkTake, s.whenRunning_running _ hp]
  rcases hr with ⟨rest, hq, rfl⟩ | ⟨rest, hq, hl, rfl⟩
  · simp only [he, hq]
  · simp only [he, hq, hl]

theorem exec_walkTake_nothing (s : State) (hp : s.phase = .running)
    (h : (s.engineA ≠ .idle ∧ s.engineB ≠ .idle) ∨ (s.releaseQueue = [] ∧ s.lookupQueue = [])) :
    exec .walkTake s = .next s := by
  rw [exec, execWalkTake, s.whenRunning_running _ hp]
  rcases h with ⟨ha, hb⟩ | ⟨hq, hl⟩
  · simp only [s.takingEngine_none ha hb]
  · cases ht : s.takingEngine with
    | none => rfl
    | some e => simp only [hq, hl]

/-- Settles O29: who takes, which request, and what R141 makes of it. -/
theorem enginesTakeReleasedRequestsFirst : Obligations.EnginesTakeReleasedRequestsFirst := by
  refine fun s hp => ⟨exec_walkTake_nothing s hp, fun e r s1 he hr ho => ?_⟩
  have htake := exec_walkTake_taken s s1 e r hp (s.takingEngine_some e he) hr
  have hresponses : s1.responses = s.responses := by
    rcases hr with ⟨_, _, rfl⟩ | ⟨_, _, _, rfl⟩ <;> rfl
  have hbad := linkMalformed_iff r.req ho
  refine ⟨fun hm => ?malformed, fun hm hk => ?unpin, fun hm hk => ?walk⟩
  case malformed =>
    rw [htake, takeRequest, if_pos (hbad.mpr hm), ← hresponses]
    rfl
  case unpin => rw [htake, takeRequest, if_neg fun h => hm (hbad.mp h), if_pos hk]
  case walk => rw [htake, takeRequest, if_neg fun h => hm (hbad.mp h), if_neg hk]

/-! ### Requests and their acknowledges (R138, Table 8-1) -/

theorem State.acknowledge_closed (s : State) (p : Fin 4) (tag : BitVec 4) (hg : s.gate ≠ .opened) :
    s.acknowledge p tag = .closed := if_pos hg

theorem State.acknowledge_noCredit (s : State) (p : Fin 4) (tag : BitVec 4) (hg : s.gate = .opened)
    (hc : (s.ports.get p).credits = 0) : s.acknowledge p tag = .noCredit := by
  rw [State.acknowledge, if_neg (not_not.mpr hg), if_pos hc]

theorem State.acknowledge_dupTag (s : State) (p : Fin 4) (tag : BitVec 4) (hg : s.gate = .opened)
    (hc : (s.ports.get p).credits ≠ 0) (ht : tag ∈ (s.ports.get p).tags) :
    s.acknowledge p tag = .dupTag := by
  rw [State.acknowledge, if_neg (not_not.mpr hg), if_neg hc, if_pos (List.contains_iff_mem.mpr ht)]

theorem State.acknowledge_accepted (s : State) (p : Fin 4) (tag : BitVec 4) (hg : s.gate = .opened)
    (hc : (s.ports.get p).credits ≠ 0) (ht : tag ∉ (s.ports.get p).tags) :
    s.acknowledge p tag = .accepted := by
  rw [State.acknowledge, if_neg (not_not.mpr hg), if_neg hc,
    if_neg fun h => ht (List.contains_iff_mem.mp h)]

/-- A refused request leaves its acknowledge alone. -/
theorem exec_linkRequest_refused (s : State) (p : Fin 4) (w0 w1 w2 : Word) (a : AckResult)
    (hp : s.phase = .running) (ha : s.acknowledge p (w0.extractLsb' 4 4) = a) (hne : a ≠ .accepted) :
    exec (.linkRequest p w0 w1 w2) s = .next { s with acks := s.acks.set p (some a) } := by
  rw [exec, execLinkRequest, s.whenRunning_running _ hp]
  simp only [messageTag, ha, if_neg hne]

/-- The request that a message makes on a port. -/
def messageOn (s : State) (p : Fin 4) (w0 w1 w2 : Word) : LinkRequest :=
  { port := p, tag := messageTag w0, req := messageRequest w0 w1 w2 (s.portDomains.get p) }

theorem exec_linkRequest_accepted (s : State) (p : Fin 4) (w0 w1 w2 : Word)
    (hp : s.phase = .running) (ha : s.acknowledge p (w0.extractLsb' 4 4) = .accepted) :
    exec (.linkRequest p w0 w1 w2) s = .next
      ({ s with acks := s.acks.set p (some .accepted) }.acceptRequest (messageOn s p w0 w1 w2)) := by
  rw [exec, execLinkRequest, s.whenRunning_running _ hp]
  simp only [messageTag, ha, if_true, messageOn]

theorem accessOfCode_bits (b : BitVec 2) :
    (accessOfCode b.toNat = .read ↔ b = 0#2) ∧ (accessOfCode b.toNat = .write ↔ b = 1#2) := by
  rcases bitVec2_cases b with rfl | rfl | rfl | rfl <;> decide

theorem kindOfCode_bits (b : BitVec 2) :
    (kindOfCode b.toNat = .lookup ↔ b = 0#2) ∧ (kindOfCode b.toNat = .lookupPin ↔ b = 1#2)
      ∧ (kindOfCode b.toNat = .unpin ↔ b = 2#2) := by
  rcases bitVec2_cases b with rfl | rfl | rfl | rfl <;> decide

/-- Settles O42: the three tests in their order, and the request an accepted message joins the queue as. -/
theorem requestsAreAcknowledgedInOrder : Obligations.RequestsAreAcknowledgedInOrder := by
  rintro s p w0 w1 w2 _ hp rfl
  have refused (a : AckResult) := exec_linkRequest_refused s p w0 w1 w2 a hp
  refine ⟨fun hg => refused _ (s.acknowledge_closed p _ hg) nofun,
    fun hg => ⟨fun hc => refused _ (s.acknowledge_noCredit p _ hg hc) nofun,
      fun hc => ⟨fun ht => refused _ (s.acknowledge_dupTag p _ hg hc ht) nofun, fun ht => ?accepted⟩⟩⟩
  case accepted =>
    obtain ⟨hread, hwrite⟩ := accessOfCode_bits (w0.extractLsb' 8 2)
    obtain ⟨hlookup, hpin, hunpin⟩ := kindOfCode_bits (w0.extractLsb' 0 2)
    exact ⟨messageOn s p w0 w1 w2, rfl, rfl, rfl, rfl, rfl, hread, hwrite, hlookup, hpin, hunpin, rfl,
      exec_linkRequest_accepted s p w0 w1 w2 hp (s.acknowledge_accepted p _ hg hc ht)⟩

/-! ### Responses accepted (R145) -/

/-- Settles O43: the head response returns its credit and its tag, and the drain is tested. -/
theorem acceptedResponseReturnsCreditAndTag : Obligations.AcceptedResponseReturnsCreditAndTag := by
  intro s hp
  rw [exec, execResponseAccept, s.whenRunning_running _ hp]
  refine ⟨fun r rest hr => ?accepts, fun hr => ?nothing⟩
  case accepts => rw [hr, ← State.testDrain_eq]; rfl
  case nothing => rw [hr]

/-! ### SET_PORT_DOMAIN (R146) -/

/-- A domain number that SET_PORT_DOMAIN refuses, or a port it refuses. -/
theorem exec_setPortDomain_refused (s : State) (hs : Accepting s)
    (h : 3 < s.args.at0.toNat ∨ s.args.at1.toNat = 0 ∨ 15 < s.args.at1.toNat) :
    exec .setPortDomain s = .next (completed s 0x2A#8 .badArgument 0#32 0#32 0#32) := by
  rw [exec, execSetPortDomain, s.submit_accepting _ hs]
  split
  · rw [if_neg (by omega)]
    rfl
  · rfl

/-- Settles O45: one entry written and its old domain reported, or BAD_ARGUMENT. -/
theorem setPortDomainWritesOneEntry : Obligations.SetPortDomainWritesOneEntry := by
  refine fun s hs => ⟨exec_setPortDomain_refused s hs, fun p hp hlo hhi => ?written⟩
  case written =>
    have hport : s.args.at0.toNat < 4 := by omega
    have hfin : (⟨s.args.at0.toNat, hport⟩ : Fin 4) = p := Fin.ext hp
    rw [exec, execSetPortDomain, s.submit_accepting _ hs]
    simp only [dif_pos hport, hfin, if_pos (And.intro hlo hhi)]
    rfl

end Sys2Proof.Machine

/-! ## The Move Timer (chapter 6) -/

namespace Sys2Proof.Machine

open Sys2Proof Sys2Proof.Safety

/-! ### Ticks and expiries (R102, R103) -/

/-- An entry whose count the next tick brings to 0 asks for its expiry from that tick on (R39, R103). -/
theorem State.deliverTick_waits (s : State) (i : Fin 4) (h : (s.moves.get i).expiresNow = true) :
    s.deliverTick.waiting .moveTimer = true := by
  rw [State.waiting_moveTimer]
  by_cases hk : s.expiryKnown i = true
  · rcases (s.expiryKnown_iff i).mp hk with hp | hx
    · exact Or.inl (List.ne_nil_of_mem hp)
    · exact Or.inr (List.ne_nil_of_mem (List.mem_append_left _ hx))
  · have hall : i ∈ quadIndices := by fin_cases i <;> decide
    refine Or.inr (List.ne_nil_of_mem (a := i) (List.mem_append_right _ (List.mem_filter.mpr ⟨hall, ?_⟩)))
    rw [h, Bool.true_and, Bool.not_eq_true', Bool.eq_false_iff]
    exact hk

theorem exec_tick_running (s : State) (hp : s.phase = .running) : exec .tick s = .next s.deliverTick :=
  congrArg _ (s.whenRunning_running _ hp)

/-- The expiries a tick notes, as the statement spells their test. -/
theorem expiresNow_and_unknown (s : State) (i : Fin 4) :
    ((s.moves.get i).expiresNow && !s.expiryKnown i)
      = ((match s.moves.get i with | .copying _ _ 1 => true | _ => false)
          && !decide (i ∈ s.expired ∨ i ∈ s.pendingExpiries)) := by
  have hknown : s.expiryKnown i = decide (i ∈ s.expired ∨ i ∈ s.pendingExpiries) := by
    rw [Bool.eq_iff_iff, s.expiryKnown_iff, decide_eq_true_iff, or_comm]
  rw [hknown]
  congr 1
  match s.moves.get i with
  | .copying _ _ 0 | .copying _ _ 1 | .copying _ _ (_ + 2) | .idle | .lapsed _ => rfl

/-- EXPIRY: the oldest expiry noted joins the pending ones. -/
theorem exec_expiry_noted (s : State) (hp : s.phase = .running) (i : Fin 4) (rest : List (Fin 4))
    (hx : s.expired = i :: rest) :
    exec .expiry s = .next { s with
      expired := rest
      pendingExpiries := if i ∈ s.pendingExpiries then s.pendingExpiries else s.pendingExpiries ++ [i] } := by
  rw [exec, execExpiry, s.whenRunning_running _ hp]
  simp only [hx, List.contains_iff_mem]

/-- Settles O37: what a tick does to each entry and notes, and how EXPIRY records what is noted. -/
theorem ticksCountDownAndExpire : Obligations.TicksCountDownAndExpire := by
  refine fun s hp => ⟨⟨_, exec_tick_running s hp, ?counts, ?stays, ?idle, ?lapsed, ?frame, ?waits⟩,
    exec_expiry_noted s hp, fun hx => ?nothing⟩
  case counts =>
    intro i n b k hi
    rw [State.deliverTick_moves_get, hi]
    rfl
  case stays =>
    intro i n b hi
    rw [State.deliverTick_moves_get, hi]
    rfl
  case idle =>
    intro i hi
    rw [State.deliverTick_moves_get, hi]
    rfl
  case lapsed =>
    intro i n hi
    rw [State.deliverTick_moves_get, hi]
    rfl
  case frame =>
    rw [State.deliverTick]
    congr 2
    exact List.filter_congr fun i _ => expiresNow_and_unknown s i
  case waits =>
    exact fun i n b hi => s.deliverTick_waits i (by rw [hi]; rfl)
  case nothing =>
    rw [exec, execExpiry, s.whenRunning_running _ hp]
    simp only [hx]

/-! ### The expiry access (R103, R115) -/

theorem exec_expiryAccess_granted (s : State) (i : Fin 4) (rest : List (Fin 4))
    (hx : s.pendingExpiries ++ s.expired = i :: rest) (hg : s.granted = some .moveTimer) :
    exec .expiryAccess s = .next
      { (s.grant .moveTimer).expireEntry i with pendingExpiries := rest, expired := [] } := by
  have hexpiries : s.expiries = i :: rest := hx
  rw [exec, execExpiryAccess]
  simp only [hexpiries, s.access_granted _ _ hg]

/-- R115: a COPYING entry at 0 lapses, its record LIVE again at the base it had. -/
theorem State.expireEntry_lapses (s : State) (i : Fin 4) (n : Nat) (b : Word) (g : BitVec 8) (o : Object)
    (hi : s.moves.get i = .copying n b 0) (hr : s.record n = .moving g o) :
    s.expireEntry i = { released s n with
      records := putRecord s.records n (.live g o), moves := s.moves.set i (.lapsed n)
      events := s.events ||| 0b000100#6 } := by
  have hbase : (s.record n).base = o.ext.base := by rw [hr]; rfl
  rw [State.expireEntry]
  simp only [hi, hbase, s.endMove_moving n _ i _ g o hr]
  rfl

theorem State.expireEntry_keeps (s : State) (i : Fin 4) (h : ∀ n b, s.moves.get i ≠ .copying n b 0) :
    s.expireEntry i = s := by
  rw [State.expireEntry]
  split
  · next n b hi => exact absurd hi (h n b)
  · rfl
  · rfl
  · rfl

/-- Settles O38: the lapse of a COPYING entry at 0, and the expiry that finds any other entry. -/
theorem expiryAccessLapsesAMove : Obligations.ExpiryAccessLapsesAMove := by
  intro s i rest hx hg
  rw [exec_expiryAccess_granted s i rest hx hg]
  refine ⟨fun n b g o hi hr => ?lapses, fun h => ?keeps⟩
  case lapses =>
    rw [(s.grant .moveTimer).expireEntry_lapses i n b g o hi hr]
    exact ⟨_, rfl, record_put_same s _ n (.live g o) rfl,
      recordsAgreeBut_put s _ n (.live g o) rfl, rfl⟩
  case keeps =>
    rw [(s.grant .moveTimer).expireEntry_keeps i h]
    rfl

end Sys2Proof.Machine

/-! ## Walks (chapter 4)

One read of a walk is judged by the record it finds; a final record is then judged by the checks of R66.
Each outcome is told once, as what the read hands on, and the settled statements hand it to the walker. -/

namespace Sys2Proof.Machine

open Sys2Proof Sys2Proof.Safety

/-! ### The read of a record (R63) -/

section
variable {mayPark : Bool} {r : WalkRequest} {snapshot : BitVec 16} {limit : Nat}
  {reading : Option OriginReading} {h : Handle} {hops : Nat} {s : State}

theorem walkRead_worn (hr : s.record h.slot = .worn) :
    walkRead mayPark r snapshot limit reading h hops s = (s, .ended (refusal .worn hops false) none) := by
  simp only [walkRead, hr]
  rfl

theorem walkRead_stale (hr : Stale h (s.record h.slot)) :
    walkRead mayPark r snapshot limit reading h hops s
      = (s, .ended (refusal (if hops = 0 then .stale else .dangling) hops false) none) := by
  obtain ⟨hworn, hfree⟩ := hr
  rw [walkRead]
  cases hrec : s.record h.slot with
  | worn => exact absurd hrec hworn
  | free g => rfl
  | live g o | moving g o | forwarded g c target =>
    rw [hrec] at hfree
    exact if_pos (hfree.resolve_left Record.noConfusion)

/-- R63 check 4, of a forwarder of the handle's generation. -/
theorem walkRead_forwarded {c : BitVec 8} {target : Handle}
    (hr : s.record h.slot = .forwarded h.gen c target) :
    walkRead mayPark r snapshot limit reading h hops s = if hops < limit then
        (s, .hop { snapshot := snapshot, limit := limit, reading := reading.getD ⟨h.gen, target⟩
                   current := target, hops := hops + 1 })
      else (s, .ended (refusal .chainLimit hops false) none) := by
  simp only [walkRead, hr, ne_eq, not_true_eq_false, if_false]
  rfl

theorem walkRead_live {o : Object} (hr : s.record h.slot = .live h.gen o) :
    walkRead mayPark r snapshot limit reading h hops s
      = walkFinalLive r snapshot h hops o (shortcutFor r snapshot reading h hops s) s := by
  simp only [walkRead, hr, ne_eq, not_true_eq_false, if_false]

theorem walkRead_moving {o : Object} (hr : s.record h.slot = .moving h.gen o) :
    walkRead mayPark r snapshot limit reading h hops s
      = walkFinalMoving mayPark r h hops o (shortcutFor r snapshot reading h hops s) s := by
  simp only [walkRead, hr, ne_eq, not_true_eq_false, if_false]

end

/-! ### The final record (R66 to R69) -/

section
variable {mayPark : Bool} {r : WalkRequest} {snapshot : BitVec 16} {h : Handle} {hops : Nat} {o : Object}
  {next : Option Shortcut} {s : State}

theorem walkFinalLive_refused {out : OutcomeCode} (hf : finalFailure r o.ext = some out) :
    walkFinalLive r snapshot h hops o next s
      = (s.fill snapshot ⟨Handle.ofWord r.origin, h, hops, o.ext⟩, .ended (refusal out hops false) next) := by
  simp only [walkFinalLive, finalRefusal_eq, hf]
  rfl

theorem walkFinalLive_resolves (hf : finalFailure r o.ext = none) (hk : r.kind ≠ .lookupPin) :
    walkFinalLive r snapshot h hops o next s
      = (s.fill snapshot ⟨Handle.ofWord r.origin, h, hops, o.ext⟩,
          .ended (success r o.ext h hops false) next) := by
  simp only [walkFinalLive, finalRefusal_eq, hf, if_neg hk]
  rfl

/-- R68: the pin that a LOOKUP_PIN takes, or PIN_LIMIT. -/
theorem walkFinalLive_pins (hf : finalFailure r o.ext = none) (hk : r.kind = .lookupPin) :
    walkFinalLive r snapshot h hops o next s
      = if o.pins = 255#8 then (s, .ended (refusal .pinLimit hops false) next)
        else ((s.setRecord h.slot (.live h.gen { o with pins := o.pins + 1#8 })).fill snapshot
              ⟨Handle.ofWord r.origin, h, hops, o.ext⟩,
            .ended (success r o.ext h hops false) next) := by
  simp only [walkFinalLive, finalRefusal_eq, hf, if_pos hk]
  rfl

theorem walkFinalMoving_refused {out : OutcomeCode} (hf : finalFailure r o.ext = some out) :
    walkFinalMoving mayPark r h hops o next s = (s, .ended (refusal out hops false) next) := by
  simp only [walkFinalMoving, finalRefusal_eq, hf]
  rfl

/-- R108: a READ LOOKUP resolves at the old base. -/
theorem walkFinalMoving_resolves (hf : finalFailure r o.ext = none) (ha : r.access ≠ .write)
    (hk : r.kind ≠ .lookupPin) :
    walkFinalMoving mayPark r h hops o next s = (s, .ended (success r o.ext h hops false) next) := by
  have hmove : ¬ moveCheckApplies r = true := fun hm => ((moveCheckApplies_iff r).mp hm).elim ha hk
  simp only [walkFinalMoving, finalRefusal_eq, hf, if_neg hmove]
  rfl

/-- R67: a WRITE or a LOOKUP_PIN is parked where it may be, and otherwise answered MOVING. -/
theorem walkFinalMoving_waits (hf : finalFailure r o.ext = none)
    (hw : r.access = .write ∨ r.kind = .lookupPin) :
    walkFinalMoving mayPark r h hops o next s = if (mayPark && s.parkRoom) = true then
        (s, .parked h.slot next) else (s, .ended (refusal .moving hops false) next) := by
  simp only [walkFinalMoving, finalRefusal_eq, hf, if_pos ((moveCheckApplies_iff r).mpr hw)]
  rfl

end

/-! ### The reads of the statements -/

/-- A walk's read changes nothing before its checks but the cache. -/
theorem reads_record {i : Instr} {s s1 : State} {k : Look} (h : Reads i s k s1) (n : Nat) :
    s1.record n = s.record n := by
  obtain ⟨_, _, hs1⟩ := exec_reads i s k s1 h
  rw [hs1]
  rfl

theorem reads_config {i : Instr} {s s1 : State} {k : Look} (h : Reads i s k s1) : s1.config = s.config := by
  obtain ⟨_, _, hs1⟩ := exec_reads i s k s1 h
  rw [hs1]

/-- What a read of a walk comes to, with the walker's client granted. -/
def readOf (k : Look) (s1 : State) : State × WalkStep :=
  walkRead (parks k.walker) k.req k.snapshot k.limit k.reading k.current k.hops
    (s1.grant (walkerClient k.walker))

/-- A read that ends its walk, with other records and another cache. -/
theorem reads_ended {i : Instr} {s s1 : State} {k : Look} (h : Reads i s k s1) {m : Store}
    {c : List CacheEntry} {x : WalkResult} {next : Option Shortcut}
    (hx : readOf k s1
      = ({ s1 with records := m, cache := c }.grant (walkerClient k.walker), .ended x next)) :
    exec i s = .next (walkEnds k.walker { s1 with records := m, cache := c } x next) := by
  obtain ⟨he, hwalk, _⟩ := exec_reads i s k s1 h
  exact he.trans (congrArg _ ((congrArg _ hx).trans (handOn_ended s _ _ _ x next (hwalk.records s s1 _ m c))))

theorem reads_hops {i : Instr} {s s1 : State} {k : Look} (h : Reads i s k s1) {p : WalkProgress}
    (hx : readOf k s1 = (s1.grant (walkerClient k.walker), .hop p)) :
    exec i s = .next (walkGoesOn k.walker s1 k.req p) := by
  obtain ⟨he, hwalk, _⟩ := exec_reads i s k s1 h
  exact he.trans (congrArg _ ((congrArg _ hx).trans (handOn_hop s s1 _ _ p hwalk)))

/-- Settles O24: the checks of R63 before the final record. -/
theorem walkRefusesOrHops : Obligations.WalkRefusesOrHops := by
  intro i s s1 k h
  rw [← reads_record h k.current.slot]
  refine ⟨fun hw => reads_ended h (walkRead_worn hw), fun hst => reads_ended h (walkRead_stale hst),
    fun c target hf => ?forwarded⟩
  case forwarded =>
    have hread := walkRead_forwarded (mayPark := parks k.walker) (r := k.req) (snapshot := k.snapshot)
      (limit := k.limit) (reading := k.reading) (hops := k.hops)
      (s := s1.grant (walkerClient k.walker)) hf
    exact ⟨fun hl => reads_ended h (hread.trans (if_neg (Nat.not_lt.mpr hl))),
      fun hl => reads_hops h (hread.trans (if_pos hl))⟩

/-! ### At a LIVE record (R50, R68, R69) -/

/-- The read at a LIVE record, with the shortcut that the statements call for. -/
theorem readOf_live {i : Instr} {s s1 : State} {k : Look} (h : Reads i s k s1) {o : Object}
    (hr : s.record k.current.slot = .live k.current.gen o) :
    readOf k s1 = walkFinalLive k.req k.snapshot k.current k.hops o (shortcutOf s k)
      (s1.grant (walkerClient k.walker)) := by
  have hr1 : (s1.grant (walkerClient k.walker)).record k.current.slot = .live k.current.gen o :=
    (reads_record h _).trans hr
  rw [readOf, walkRead_live hr1, shortcutFor_eq s s1 k _ (reads_config h)]

/-- A LIVE record that fails a check of R66: the refusal, after a fill. -/
theorem reads_live_refused {i : Instr} {s s1 : State} {k : Look} (h : Reads i s k s1) {o : Object}
    (hr : s.record k.current.slot = .live k.current.gen o) {out : OutcomeCode}
    (hf : finalFailure k.req o.ext = some out) :
    exec i s = .next (walkEnds k.walker { s1 with cache := filledCache s1 k o.ext }
      (refusal out k.hops false) (shortcutOf s k)) := by
  refine reads_ended h (m := s1.records) ((readOf_live h hr).trans ?_)
  rw [walkFinalLive_refused hf, fill_eq]

/-- Settles O25: a LOOKUP at a LIVE record fills, whether it is refused or resolves. -/
theorem lookupAtALiveRecord : Obligations.LookupAtALiveRecord := by
  refine fun i s s1 k o h hr hk => ⟨fun out hf => reads_live_refused h hr hf, fun hf => ?resolves⟩
  case resolves =>
    refine reads_ended h (m := s1.records) ((readOf_live h hr).trans ?_)
    rw [walkFinalLive_resolves hf hk, fill_eq]

/-- Settles O26: a LOOKUP_PIN at a LIVE record is refused, answered PIN_LIMIT, or pins in its access. -/
theorem lookupPinAtALiveRecord : Obligations.LookupPinAtALiveRecord := by
  refine fun i s s1 k o h hr hk => ⟨fun out hf => reads_live_refused h hr hf, fun hf hp => ?limit,
    fun hf hp => ?pins⟩
  case limit =>
    refine reads_ended h (m := s1.records) (c := s1.cache) ((readOf_live h hr).trans ?_)
    rw [walkFinalLive_pins hf hk, if_pos hp]
  case pins =>
    have hread := (readOf_live h hr).trans ((walkFinalLive_pins hf hk).trans (if_neg hp))
    have hfill := fill_eq (s1.setRecord k.current.slot (.live k.current.gen { o with pins := o.pins + 1#8 }))
      k o.ext (walkerClient k.walker)
    have hend := reads_ended h (hread.trans (congrArg (·, _) hfill))
    obtain ⟨t, ht, hrec, hagree, hx⟩ := exists_walkEnds_put
      (s := { s1 with cache := filledCache s1 k o.ext }) (n := k.current.slot)
      (r := .live k.current.gen { o with pins := o.pins + 1#8 }) hend
    exact ⟨t, ht, hrec, fun n hn => (hagree n hn).trans (reads_record h n), hx⟩

/-! ### At a MOVING record (R67, R78, R108, R111) -/

theorem readOf_moving {i : Instr} {s s1 : State} {k : Look} (h : Reads i s k s1) {o : Object}
    (hr : s.record k.current.slot = .moving k.current.gen o) :
    readOf k s1 = walkFinalMoving (parks k.walker) k.req k.current k.hops o (shortcutOf s k)
      (s1.grant (walkerClient k.walker)) := by
  have hr1 : (s1.grant (walkerClient k.walker)).record k.current.slot = .moving k.current.gen o :=
    (reads_record h _).trans hr
  rw [readOf, walkRead_moving hr1, shortcutFor_eq s s1 k _ (reads_config h)]

/-- R83: room for one more parked request, as it stood before the access. -/
theorem reads_parkRoom_iff {i : Instr} {s s1 : State} {k : Look} (h : Reads i s k s1) (c : Client) :
    (s1.grant c).parkRoom = true ↔ s.parkList.length + s.releaseQueue.length < 8 := by
  obtain ⟨_, _, hs1⟩ := exec_reads i s k s1 h
  rw [hs1]
  exact decide_eq_true_iff

/-- Settles O27: the checks, the READ that resolves, and the request that is parked or answered MOVING. -/
theorem walkAtAMovingRecord : Obligations.WalkAtAMovingRecord := by
  intro i s s1 k o h hr
  have hread := readOf_moving h hr
  have hroom := reads_parkRoom_iff h (walkerClient k.walker)
  refine ⟨fun out hf => reads_ended h (hread.trans (walkFinalMoving_refused hf)),
    fun hf ha hk => reads_ended h (hread.trans (walkFinalMoving_resolves hf ha hk)),
    fun hf hw => ⟨fun hno => ?answered, fun e he hfree => ?parked⟩⟩
  case answered =>
    refine reads_ended h (hread.trans ((walkFinalMoving_waits hf hw).trans (if_neg fun hpark => ?_)))
    obtain ⟨hmay, hfree⟩ := Bool.and_eq_true_iff.mp hpark
    rcases hno with hcommand | hfull
    · rw [hcommand] at hmay
      cases hmay
    · exact absurd (hroom.mp hfree) (Nat.not_lt.mpr hfull)
  case parked =>
    obtain ⟨hexec, hwalk, _⟩ := exec_reads i s k s1 h
    have hmay : parks k.walker = true := by rw [he]; rfl
    have hparks := hread.trans ((walkFinalMoving_waits hf hw).trans
      (if_pos (Bool.and_eq_true_iff.mpr ⟨hmay, hroom.mpr hfree⟩)))
    rw [readOf] at hparks
    rw [hexec, hparks]
    rw [he] at hwalk ⊢
    exact congrArg _ (handOn_parked s s1 e _ _ _ hwalk)

/-! ### The first access: a null origin, or a hit (R47, R48, R62) -/

section
variable {r : WalkRequest} {e : CacheEntry} {s : State}

theorem walkHit_refused {out : OutcomeCode} (hf : finalFailure r e.ext = some out) :
    walkHit r e s
      = ({ s with cache := cacheTouch s.cache e }, .ended (refusal out e.hops true) none) := by
  simp only [walkHit, finalRefusal_eq, hf]
  rfl

theorem walkHit_resolves (hf : finalFailure r e.ext = none) (hk : r.kind ≠ .lookupPin) :
    walkHit r e s = ({ s with cache := cacheTouch s.cache e },
      .ended (success r e.ext e.final e.hops true) none) := by
  simp only [walkHit, finalRefusal_eq, hf, if_neg hk]
  rfl

/-- R48: the pin that a LOOKUP_PIN takes on a hit, or PIN_LIMIT. -/
theorem walkHit_pins {o : Object} (hf : finalFailure r e.ext = none) (hk : r.kind = .lookupPin)
    (hr : s.record e.final.slot = .live e.final.gen o) :
    walkHit r e s = if o.pins = 255#8 then
        ({ s with cache := cacheTouch s.cache e }, .ended (refusal .pinLimit e.hops true) none)
      else ({ s with cache := cacheTouch s.cache e }.setRecord e.final.slot
            (.live e.final.gen { o with pins := o.pins + 1#8 }),
          .ended (success r e.ext e.final e.hops true) none) := by
  have hr1 : { s with cache := cacheTouch s.cache e }.record e.final.slot = .live e.final.gen o := hr
  simp only [walkHit, finalRefusal_eq, hf, if_pos hk, hr1]
  rfl

end

/-- A first access that ends its walk, with other records and another cache. -/
theorem walkFirst_ended {s : State} {w : Walker} {r : WalkRequest} (h : Opens s w r) {m : Store}
    {c : List CacheEntry} {x : WalkResult}
    (hx : walkFirst (parks w) r (s.grant (walkerClient w))
      = ({ s with records := m, cache := c }.grant (walkerClient w), .ended x none)) :
    exec (.walkFirstAccess w) s = .next (walkEnds w { s with records := m, cache := c } x none) := by
  rw [exec_walkFirst s w r h, hx]
  exact congrArg _ (handOn_ended s _ w r x none (SameWalk.records s s w m c (SameWalk.of_opens s w r h)))

/-- R62: a null handle in the origin. -/
theorem walkFirst_null (mayPark : Bool) (r : WalkRequest) (s : State) (hn : Null r.origin) :
    walkFirst mayPark r s = (s, .ended (refusal .nullHandle 0 false) none) := by
  simp only [walkFirst, (handleForm_null_iff _).mpr hn]
  rfl

/-- R46, R47: a probe that hits, with the entry at the front of the cache it leaves. -/
theorem walkFirst_hit (mayPark : Bool) (r : WalkRequest) (s : State) (before : List CacheEntry)
    (e : CacheEntry) (after : List CacheEntry) (hen : s.config.cacheEn = true)
    (hc : s.cache = before ++ e :: after) (hs : Spells r.origin e.origin)
    (hu : ∀ f ∈ before ++ after, f.origin ≠ e.origin) (hl : e.hops ≤ s.config.hopLimit) :
    walkFirst mayPark r s = walkHit r e s ∧ cacheTouch s.cache e = e :: (before ++ after) := by
  obtain ⟨hprobe, htouch⟩ := s.probe_hits before e after hen hc hu hl
  refine ⟨?_, htouch⟩
  simp only [walkFirst, (handleForm_named_iff _ _).mpr hs, hprobe]

/-- Settles O23: a null origin ends the walk; so does a hit, judged on the entry's fields. -/
theorem firstAccessOfNullOriginOrHit : Obligations.FirstAccessOfNullOriginOrHit := by
  refine fun s w r h => ⟨fun hn => walkFirst_ended h (walkFirst_null _ r _ hn),
    fun before e after hen hc hs hu hl => ?_⟩
  obtain ⟨hfirst, htouch⟩ :=
    walkFirst_hit (parks w) r (s.grant (walkerClient w)) before e after hen hc hs hu hl
  rw [← htouch]
  refine ⟨fun out hf => walkFirst_ended h (hfirst.trans (walkHit_refused hf)),
    fun hf hk => walkFirst_ended h (hfirst.trans (walkHit_resolves hf hk)),
    fun o hf hk hr => ⟨fun hp => ?limit, fun hp => ?pins⟩⟩
  case limit =>
    have hhit := walkHit_pins (s := s.grant (walkerClient w)) hf hk hr
    exact walkFirst_ended h (hfirst.trans (hhit.trans (if_pos hp)))
  case pins =>
    have hhit := walkHit_pins (s := s.grant (walkerClient w)) hf hk hr
    exact exists_walkEnds_put (s := { s with cache := cacheTouch s.cache e }) (n := e.final.slot)
      (r := .live e.final.gen { o with pins := o.pins + 1#8 })
      (walkFirst_ended h (hfirst.trans (hhit.trans (if_neg hp))))

end Sys2Proof.Machine
